-- ==== Sys2Proof/Word.lean ====
section
/-! DEFINITION. The widths of the SHA-256 core's data (00_scope.md R7, R10, R13): words, bytes, input elements, and the fixed-size
arrays made of words. Every datapath value is unsigned. -/

namespace Sys2Proof

/-- A datapath word: 32 bits, unsigned (00_scope.md R7 `WORD`, R10). -/
abbrev Word := BitVec 32

/-- A byte: 8 bits (20_memory.md R40). -/
abbrev Byte := BitVec 8

/-- One input element: an unsigned 16-bit character code (00_scope.md R7 `ELEM_WIDTH`, 30_encoding.md R57). -/
abbrev Element := BitVec 16

/-- A state: exactly 8 words (00_scope.md R13). The shape of `H`, `x` and the ROM `H0`. -/
abbrev Words8 := Vector Word 8

/-- A block: exactly 16 words (00_scope.md R13). The shape of `M`. -/
abbrev Block := Vector Word 16

/-- A schedule: exactly 64 words (00_scope.md R13). The shape of `W` and the ROM `K`. -/
abbrev Schedule := Vector Word 64

end Sys2Proof
end

