-- ==== Sys2Proof/Syntax.lean ====
section
/-! DEFINITION. The commands of the core, one constructor for each row of spec/opcode_table.json (30_encoding.md R58). Operands are
held at the width the encoding gives them, so an operand out of range (30_encoding.md R57) cannot be written down. -/

namespace Sys2Proof

/-- A command (00_scope.md R6: commands take the place of instructions). -/
inductive Instr where
  /-- INIT: begin a computation (41_preprocessor.md R81). -/
  | init
  /-- ABSORB c: take in one input element, any of the 65536 character codes (41_preprocessor.md R85). -/
  | absorb (c : Element)
  /-- FINAL: pad, append the length, and finish the digest (41_preprocessor.md R88). -/
  | final
  /-- RDHEX i: read digest character i, 0 to 63 (44_encoder.md R121). -/
  | rdhex (i : BitVec 6)
  /-- RDSTAT: read the STATUS view (45_control.md R131). -/
  | rdstat
  deriving DecidableEq, Repr

end Sys2Proof
end

