-- ==== Sys2Proof/WellFormed.lean ====
section
/-! DEFINITION. What a command and a command word must be like: the operand ranges of 30_encoding.md R57 and R68, and the legality
of a raw 32-bit word by the match and mask table of R58. -/

namespace Sys2Proof

/-- The operand ranges of 30_encoding.md R57 and R68: `0 <= c <= 65535`, `0 <= i <= 63`. The operand types carry them, so every
`Instr` passes. -/
def Instr.wellFormed : Instr → Bool
  | .init => true
  | .absorb c => decide (c.toNat ≤ 65535)
  | .final => true
  | .rdhex i => decide (i.toNat ≤ 63)
  | .rdstat => true

/-- One row of the opcode map (30_encoding.md R58). -/
structure OpcodeRow where
  /-- The row's mnemonic. -/
  mnemonic : String
  /-- The bits that are fixed, at their values. -/
  matchBits : Word
  /-- Which bits are fixed. -/
  mask : Word
  deriving DecidableEq, Repr

/-- A word selects a row exactly when `(w and mask) = match` (30_encoding.md R58). -/
def OpcodeRow.selects (r : OpcodeRow) (w : Word) : Bool := (w &&& r.mask) == r.matchBits

/-- The opcode map, row by row (30_encoding.md R58). -/
def opcodeTable : List OpcodeRow :=
  [⟨"INIT", 0x10000000, 0xFFFFFFFF⟩,
   ⟨"ABSORB", 0x20000000, 0xFFFF0000⟩,
   ⟨"FINAL", 0x30000000, 0xFFFFFFFF⟩,
   ⟨"RDHEX", 0x40000000, 0xFFFFFFC0⟩,
   ⟨"RDSTAT", 0x50000000, 0xFFFFFFFF⟩]

/-- A raw word is legal when it selects a row of the opcode map (30_encoding.md R58, R63). -/
def legalWord (w : Word) : Bool := opcodeTable.any (fun r => r.selects w)

end Sys2Proof
end

