-- ==== Sys2Proof/Decode.lean ====
section
/-! DEFINITION. Decoding a 32-bit command word, total on all 2^32 words (30_encoding.md R55 to R59, R63), and after it the encoder,
written from the same table. Decoding reads no state. -/

namespace Sys2Proof

/-- Why a word is ILLEGAL (30_encoding.md R63). The spec has the one result ILLEGAL; the four names say which test of R59 refused
the word, and all four raise the same IllegalCommand (log 12). -/
inductive Illegal where
  /-- `zero != 0`: a must-be-zero bit among 27:16 is set. -/
  | zeroFieldSet
  /-- `op` is 0x0 or 0x6 to 0xF. -/
  | unassignedOp
  /-- INIT, FINAL or RDSTAT with `arg != 0`. -/
  | argumentSet
  /-- RDHEX with `arg[15:6] != 0`. -/
  | indexTooLarge
  deriving DecidableEq, Repr

/-- `op = cmd[31:28]` (30_encoding.md R56). -/
def opField (w : Word) : BitVec 4 := w.extractLsb' 28 4

/-- `zero = cmd[27:16]` (30_encoding.md R56). -/
def zeroField (w : Word) : BitVec 12 := w.extractLsb' 16 12

/-- `arg = cmd[15:0]` (30_encoding.md R56). -/
def argField (w : Word) : BitVec 16 := w.extractLsb' 0 16

/-- A command that takes no argument: legal only with `arg = 0` (30_encoding.md R57). -/
def withoutArgument (arg : BitVec 16) (i : Instr) : Except Illegal Instr :=
  if arg = 0 then .ok i else .error .argumentSet

/-- `decode(w)` (30_encoding.md R59), tests in the order of the rule. -/
def decode (w : Word) : Except Illegal Instr :=
  let arg := argField w
  if zeroField w ≠ 0 then .error .zeroFieldSet
  else if opField w = 0x1 then withoutArgument arg .init
  else if opField w = 0x2 then .ok (.absorb arg)
  else if opField w = 0x3 then withoutArgument arg .final
  else if opField w = 0x4 then
    if arg.extractLsb' 6 10 = 0 then .ok (.rdhex (arg.extractLsb' 0 6)) else .error .indexTooLarge
  else if opField w = 0x5 then withoutArgument arg .rdstat
  else .error .unassignedOp

/-- `cmd = (op << 28) | (zero << 16) | arg` with `zero = 0` (30_encoding.md R56). -/
def commandWord (op : BitVec 4) (arg : BitVec 16) : Word := op ++ 0#12 ++ arg

/-- `encode` of a command (30_encoding.md R59). -/
def encode : Instr → Word
  | .init => commandWord 0x1 0
  | .absorb c => commandWord 0x2 c
  | .final => commandWord 0x3 0
  | .rdhex i => commandWord 0x4 (i.setWidth 16)
  | .rdstat => commandWord 0x5 0

/-- The word an opcode-table row stands for: the bits above `nbits` are zero (log 15). A command is one 32-bit word (R55), with no
byte order (20_memory.md R45). -/
def tableWord (nbits w : Nat) : Word := BitVec.ofNat 32 (w % 2 ^ nbits)

/-- The instruction the decoder reads from the bits of an opcode-table row; `none` where it refuses. -/
def decodeTableWord (nbits w : Nat) : Option Instr :=
  match decode (tableWord nbits w) with
  | .ok i => some i
  | .error _ => none

end Sys2Proof
end

