-- ==== Sys2Proof/Config.lean ====
section
/-! DEFINITION. What is fixed for the machine (the constant ROMs and the sizes) and what the spec leaves open (free values, as
opaque constants with no body). One more open parameter, `Config.latency`, takes a machine state as argument and so stands beside
the pin layer that uses it, in Machine/Pins.lean. -/

namespace Sys2Proof.Config

/-- `BYTE_MAX`: the largest valid element (00_scope.md R7). -/
def byteMax : Nat := 255

/-- `MAX_MSG_BYTES`: the longest message, 2^61 - 1 bytes (00_scope.md R7, 41_preprocessor.md R94). -/
def maxMsgBytes : Nat := 2 ^ 61 - 1

/-- The first 64 primes in ascending order, `p(0)` to `p(63)` (40_constant_table.md R74). -/
def primes : List Nat :=
  [2, 3, 5, 7, 11, 13, 17, 19, 23, 29, 31, 37, 41, 43, 47, 53] ++
  [59, 61, 67, 71, 73, 79, 83, 89, 97, 101, 103, 107, 109, 113, 127, 131] ++
  [137, 139, 149, 151, 157, 163, 167, 173, 179, 181, 191, 193, 197, 199, 211, 223] ++
  [227, 229, 233, 239, 241, 251, 257, 263, 269, 271, 277, 281, 283, 293, 307, 311]

/-- The ROM `H0[0..7]` (10_state.md R32, 40_constant_table.md R76). -/
def H0 : Words8 :=
  #v[0x6a09e667, 0xbb67ae85, 0x3c6ef372, 0xa54ff53a, 0x510e527f, 0x9b05688c, 0x1f83d9ab, 0x5be0cd19]

/-- The contents of the ROM `K`, row by row of the table of 40_constant_table.md R77. -/
def kWords : List Word :=
  [0x428a2f98, 0x71374491, 0xb5c0fbcf, 0xe9b5dba5, 0x3956c25b, 0x59f111f1, 0x923f82a4, 0xab1c5ed5] ++
  [0xd807aa98, 0x12835b01, 0x243185be, 0x550c7dc3, 0x72be5d74, 0x80deb1fe, 0x9bdc06a7, 0xc19bf174] ++
  [0xe49b69c1, 0xefbe4786, 0x0fc19dc6, 0x240ca1cc, 0x2de92c6f, 0x4a7484aa, 0x5cb0a9dc, 0x76f988da] ++
  [0x983e5152, 0xa831c66d, 0xb00327c8, 0xbf597fc7, 0xc6e00bf3, 0xd5a79147, 0x06ca6351, 0x14292967] ++
  [0x27b70a85, 0x2e1b2138, 0x4d2c6dfc, 0x53380d13, 0x650a7354, 0x766a0abb, 0x81c2c92e, 0x92722c85] ++
  [0xa2bfe8a1, 0xa81a664b, 0xc24b8b70, 0xc76c51a3, 0xd192e819, 0xd6990624, 0xf40e3585, 0x106aa070] ++
  [0x19a4c116, 0x1e376c08, 0x2748774c, 0x34b0bcb5, 0x391c0cb3, 0x4ed8aa4a, 0x5b9cca4f, 0x682e6ff3] ++
  [0x748f82ee, 0x78a5636f, 0x84c87814, 0x8cc70208, 0x90befffa, 0xa4506ceb, 0xbef9a3f7, 0xc67178f2]

/-- The ROM `K[0..63]` (10_state.md R31, 40_constant_table.md R77). -/
def K : Schedule := ⟨⟨kWords⟩, rfl⟩

/-- FREE VALUE: what `H` holds after the n-th reset or loss of power of a run (10_state.md R35, R36 "unspecified (no value)";
log 2). -/
opaque unspecifiedH : Nat → Words8

/-- FREE VALUE: what `x` holds after the n-th reset or loss of power of a run (10_state.md R35, R36; log 2). -/
opaque unspecifiedX : Nat → Words8

/-- FREE VALUE: what `W` holds after the n-th reset or loss of power of a run (10_state.md R35, R36; log 2). -/
opaque unspecifiedW : Nat → Schedule

/-- FREE VALUE: what `M` holds after the n-th reset or loss of power of a run (10_state.md R35, R36; log 2). -/
opaque unspecifiedM : Nat → Block

/-- FREE VALUE: what `LEN` holds after the n-th reset or loss of power of a run (10_state.md R35, R36; log 2). -/
opaque unspecifiedLEN : Nat → BitVec 61

/-- OPEN: how many further clock edges pass before `cmd_ready` rises, when the clock has seen this many edges (after reset: "within a
finite number of cycles", 70_reset_and_hazards.md R169; after a transfer: "eventually", R174; log 10). -/
opaque settleCycles : Nat → Nat

/-- FREE VALUE: what `rsp_err` carries while `rsp_valid = 0`, per clock edge (not said by 70_reset_and_hazards.md R168; log 11). -/
opaque idleErr : Nat → Bool

/-- FREE VALUE: what `rsp_data` carries while `rsp_valid = 0`, per clock edge (not said by 70_reset_and_hazards.md R168; log 11). -/
opaque idleData : Nat → Word

end Sys2Proof.Config
end

