-- ==== Sys2Proof/Machine/State.lean ====
section
/-! DEFINITION. The state of the core as plain data (10_state.md R20), the host's inputs and the responses beside it, the ways a step
can stop, and the state right after reset. -/

namespace Sys2Proof.Machine

/-- `PHASE` (10_state.md R26): the four values of the 2-bit register, by name. -/
inductive Phase where
  /-- 0: after reset; no computation begun. -/
  | idle
  /-- 1: a message is being taken in. -/
  | absorbing
  /-- 2: the digest is in `H` and may be read. -/
  | done
  /-- 3: a fatal exception ended the computation; no digest exists. -/
  | failed
  deriving DecidableEq, Repr

/-- The core's answer to one command (30_encoding.md R66). -/
structure Response where
  /-- The 1-bit `err`. -/
  err : Bool
  /-- The 32-bit `data`. -/
  data : Word
  deriving DecidableEq, Repr

/-- What the host or the platform does to the core, at transaction level (10_state.md R34, 70_reset_and_hazards.md R175). -/
inductive HostInput where
  /-- The host sends a 32-bit command word, legal or not. -/
  | command (w : Word)
  /-- The platform resets the core (70_reset_and_hazards.md R156), between two commands. -/
  | reset
  /-- The platform removes power between two commands (60_exceptions.md R154), applies it again, and asserts the reset that
  70_reset_and_hazards.md R159 requires before the next command (log 8). -/
  | removePower
  deriving DecidableEq, Repr

/-- The four exceptions (60_exceptions.md R136), with what the fatal ones record. -/
inductive Trap where
  /-- InvalidByte(c), code 1, fatal (R141). -/
  | invalidByte (c : Element)
  /-- IllegalCommand, code 2 (R142). -/
  | illegalCommand
  /-- SequenceError, code 3 (R143). -/
  | sequenceError
  /-- LengthOverflow(c), code 4, fatal (R144). -/
  | lengthOverflow (c : Element)
  deriving DecidableEq, Repr

/-- Why the machine stops. The spec's own exceptions are next states, so the transaction-level step never faults. -/
inductive Fault where
  /-- Raised by `Pins.edge` alone: the host withdrew `cmd_valid`, or changed `cmd`, before the offered command was accepted, against
  70_reset_and_hazards.md R167. "No move is defined for it" (45_control.md R135). Safe: the model stops where hardware goes on in
  a way the spec does not give. -/
  | hostBrokeHandshake
  deriving DecidableEq, Repr

/-- Why the model gives no meaning. -/
inductive Refusal where
  /-- An arm of `exec` that has no meaning yet. Raised by no arm: every command of the opcode table has its meaning. Safe. -/
  | notModelled (mnemonic : String)
  /-- Raised by `Pins.edge` alone: a clock edge with `rst = 0` before the first reset since power came on. "Before that reset, no rule of this spec holds
  and a model should give such a run no meaning" (70_reset_and_hazards.md R159). Safe. -/
  | beforeFirstReset
  deriving DecidableEq, Repr

/-- The architectural state of one core (10_state.md R20), with the host's inputs and the responses. The ROMs `K` and `H0` are
constants of the model (R34): `Config.K`, `Config.H0`. -/
structure State where
  /-- Chaining state (10_state.md R21). -/
  H : Words8
  /-- Working registers a to h (10_state.md R22). -/
  x : Words8
  /-- Schedule memory (10_state.md R23). -/
  W : Schedule
  /-- Block buffer (10_state.md R24). -/
  M : Block
  /-- Message bytes accepted since the last INIT (10_state.md R25). -/
  LEN : BitVec 61
  /-- Which commands are legal (10_state.md R26). -/
  PHASE : Phase
  /-- Code of the fatal exception on record, or 0 (10_state.md R28). -/
  CAUSE : BitVec 3
  /-- Element of the ABSORB that raised it, or 0 (10_state.md R29). -/
  BADCHAR : Element
  /-- Inputs the host will deliver next, in order (R34; log 3). -/
  inbox : List HostInput
  /-- Responses given so far, oldest first (30_encoding.md R66, 70_reset_and_hazards.md R175; log 4). -/
  outbox : List Response
  /-- The MODEL's own counter of the times in this run that a reset, or the loss of power, left registers unspecified; their free
  values are applied to it (log 2). -/
  resets : Nat
  deriving DecidableEq, Repr

/-- The machine right after reset (10_state.md R35, 70_reset_and_hazards.md R156): `PHASE`, `CAUSE`, `BADCHAR` as the spec says.
DESIGN CHOICE (log 1, unsafe): `H`, `x`, `W`, `M`, `LEN`, which the spec leaves without a value, hold zero. -/
def State.reset : State where
  H := Vector.replicate 8 0
  x := Vector.replicate 8 0
  W := Vector.replicate 64 0
  M := Vector.replicate 16 0
  LEN := 0
  PHASE := .idle
  CAUSE := 0
  BADCHAR := 0
  inbox := []
  outbox := []
  resets := 0

end Sys2Proof.Machine
end

