-- ==== Sys2Proof/Machine/Ops.lean ====
section
/-! DEFINITION. The operations every command shares: the word primitives of 00_scope.md R11, the counted loop, giving a response,
taking an exception (60_exceptions.md R140 to R144), leaving one, and reset. -/

namespace Sys2Proof.Machine

/-! ### Word primitives (00_scope.md R11, 43_compression.md R114) -/

/-- `add32(u, v) = (u + v) mod 2^32`. -/
def add32 (u v : Word) : Word := BitVec.ofNat 32 ((u.toNat + v.toNat) % 2 ^ 32)

/-- `rotr(u, n) = (u >> n) | ((u << (32-n)) mod 2^32)`, for `0 < n < 32`. -/
def rotr (u : Word) (n : Nat) : Word := (u >>> n) ||| (u <<< (32 - n))

/-- `shr(u, n) = floor(u / 2^n)`, zeros entering from the top. -/
def shr (u : Word) (n : Nat) : Word := u >>> n

/-! ### The counted loop -/

/-- `for t in 0..n-1` in ascending order (00_scope.md R9): `f 0`, then `f 1`, up to `f (n-1)`. -/
def forUpTo {α : Type} : (n : Nat) → (Fin n → α → α) → α → α
  | 0, _, a => a
  | n + 1, f, a => f (Fin.last n) (forUpTo n (fun t => f t.castSucc) a)

/-! ### Responses (30_encoding.md R66) -/

/-- Give the one response of a command. -/
def State.respond (s : State) (r : Response) : State := { s with outbox := s.outbox ++ [r] }

/-- `respond OK(d)`: `err = 0, data = d` (00_scope.md R12). -/
def okResponse (d : Word) : Response := ⟨false, d⟩

/-- `respond ERR(code)`: `err = 1, data = zext_32(code)` (30_encoding.md R66). -/
def errResponse (code : BitVec 4) : Response := ⟨true, code.setWidth 32⟩

/-! ### Taking an exception -/

/-- The exception's code (60_exceptions.md R136). -/
def Trap.code : Trap → BitVec 4
  | .invalidByte _ => 1
  | .illegalCommand => 2
  | .sequenceError => 3
  | .lengthOverflow _ => 4

/-- A fatal exception ends the computation (60_exceptions.md R136, R137). -/
def Trap.fatal : Trap → Bool
  | .invalidByte _ => true
  | .illegalCommand => false
  | .sequenceError => false
  | .lengthOverflow _ => true

/-- What a fatal exception records (60_exceptions.md R141, R144): `PHASE <- FAILED`, `CAUSE <- code`, `BADCHAR <- c`. -/
def State.recordFatal (s : State) (cause : BitVec 3) (c : Element) : State :=
  { s with PHASE := .failed, CAUSE := cause, BADCHAR := c }

/-- The recorded writes of 60_exceptions.md R136: a non-fatal exception writes nothing (R137). -/
def State.recordTrap (s : State) : Trap → State
  | .invalidByte c => s.recordFatal 1 c
  | .illegalCommand => s
  | .sequenceError => s
  | .lengthOverflow c => s.recordFatal 4 c

/-- `raise E(info)` (60_exceptions.md R140): the recorded writes of the exception's own rule, then the response `(1, code)`. No state
is saved elsewhere and control goes to the host. -/
def State.takeTrap (s : State) (e : Trap) : State := (s.recordTrap e).respond (errResponse e.code)

/-- The return from a fatal exception is INIT, which clears its record and begins a new computation (60_exceptions.md R146,
41_preprocessor.md R81). A non-fatal exception needs no return. -/
def State.clearTrapRecord (s : State) : State := { s with CAUSE := 0, BADCHAR := 0 }

/-! ### Reset and the loss of power as inputs -/

/-- The registers of 10_state.md R35 that are "unspecified (no value)", `H`, `x`, `W`, `M`, `LEN`, lose what they hold: each is a free
value, and a new one at every loss (log 2). Nothing else changes. -/
def State.loseUnspecified (s : State) : State :=
  { s with
    H := Config.unspecifiedH s.resets
    x := Config.unspecifiedX s.resets
    W := Config.unspecifiedW s.resets
    M := Config.unspecifiedM s.resets
    LEN := Config.unspecifiedLEN s.resets
    resets := s.resets + 1 }

/-- A reset that arrives in a run (70_reset_and_hazards.md R156): `PHASE`, `CAUSE`, `BADCHAR` as stated; `H`, `x`, `W`, `M`, `LEN`
become unspecified (log 2). Inputs not delivered yet and responses already given stay. -/
def State.applyReset (s : State) : State := { s.loseUnspecified with PHASE := .idle, CAUSE := 0, BADCHAR := 0 }

/-- "Removing power is the same as reset followed by loss of the 'unspecified' registers" (60_exceptions.md R154). -/
def State.losePower (s : State) : State := s.applyReset.loseUnspecified

end Sys2Proof.Machine
end

