-- ==== Sys2Proof/Machine/Operands.lean ====
section
/-! DEFINITION. Every operand form of the commands and micro-operations: the input element, the byte position in the block buffer,
the length field, and the digest-character index. -/

namespace Sys2Proof.Machine

/-! ### The element of ABSORB -/

/-- An element is valid exactly when `c <= 255` (41_preprocessor.md R82). -/
def validElement (c : Element) : Bool := decide (c.toNat ≤ Config.byteMax)

/-- `c[7:0]`, the byte an ABSORB places (41_preprocessor.md R85). -/
def elementByte (c : Element) : Byte := c.extractLsb' 0 8

/-! ### The byte view of the block buffer (10_state.md R24, 20_memory.md R42) -/

/-- `LEN mod 64`: where the next byte goes (10_state.md R25). -/
def bytePos (LEN : BitVec 61) : Fin 64 := ⟨LEN.toNat % 64, Nat.mod_lt _ (by decide)⟩

/-- The word a byte position lies in, `p div 4` (41_preprocessor.md R83). -/
def byteWord (p : Fin 64) : Fin 16 := ⟨p.val / 4, by omega⟩

/-- The shift of a byte position's lane, `24 - 8 (p mod 4)`: lane 0 is the most significant (41_preprocessor.md R83). -/
def laneShift (p : Fin 64) : Nat := 24 - 8 * (p.val % 4)

/-- The byte at position `p` of a block: bits `[31 - 8(p mod 4) : 24 - 8(p mod 4)]` of word `p div 4` (10_state.md R24). -/
def byteAt (M : Block) (p : Fin 64) : Byte := M[byteWord p].extractLsb' (laneShift p) 8

/-! ### The length field -/

/-- `L = zext_64(LEN) * 8`, the message length in bits (41_preprocessor.md R88, R89). -/
def bitLength (LEN : BitVec 61) : BitVec 64 := LEN.setWidth 64 * 8

/-- `L[63:32]` (41_preprocessor.md R88). -/
def lengthHigh (L : BitVec 64) : Word := L.extractLsb' 32 32

/-- `L[31:0]` (41_preprocessor.md R88). -/
def lengthLow (L : BitVec 64) : Word := L.extractLsb' 0 32

/-- `LEN = 2^61 - 1`: no further byte can be counted (41_preprocessor.md R85). -/
def lengthFull (LEN : BitVec 61) : Bool := decide (LEN.toNat = Config.maxMsgBytes)

/-! ### The digest-character index of RDHEX (44_encoder.md R118, R120) -/

/-- `i div 8`: the word of `H` that holds digit `i`. -/
def hexWord (i : BitVec 6) : Fin 8 := ⟨i.toNat / 8, by omega⟩

/-- `28 - 4 (i mod 8)`: the low bit of digit `i` in its word. -/
def hexShift (i : BitVec 6) : Nat := 28 - 4 * (i.toNat % 8)

/-- `nib(S, i) = S[i div 8][31 - 4(i mod 8) : 28 - 4(i mod 8)]` (44_encoder.md R118). -/
def nibble (S : Words8) (i : BitVec 6) : BitVec 4 := S[hexWord i].extractLsb' (hexShift i) 4

end Sys2Proof.Machine
end

