-- ==== Sys2Proof/Machine/Flags.lean ====
section
/-! DEFINITION. The core has no condition codes, carry, overflow or zero flags (10_state.md R38). The only status a host can test is
the `err` bit of each response (Machine/Ops.lean) and the STATUS view built here. -/

namespace Sys2Proof.Machine

/-- The 2-bit value of `PHASE` (10_state.md R26). -/
def Phase.code : Phase → BitVec 2
  | .idle => 0
  | .absorbing => 1
  | .done => 2
  | .failed => 3

/-- `STATUS = {BADCHAR, 0 (11 bits), CAUSE, PHASE}` (10_state.md R30, 45_control.md R131). -/
def State.status (s : State) : Word := s.BADCHAR ++ 0#11 ++ s.CAUSE ++ s.PHASE.code

end Sys2Proof.Machine
end

