-- ==== Sys2Proof/Machine/Scheduler.lean ====
section
/-! DEFINITION. The Scheduler (42_scheduler.md): the word functions, the pure function `expand`, and the micro-operation SCHED, which
fills the schedule memory in place. Loops of literal length are named and irreducible, so that no unification runs them; the kernel
still evaluates them. -/

namespace Sys2Proof.Machine

/-- σ0 (42_scheduler.md R97). -/
def smallSigma0 (u : Word) : Word := rotr u 7 ^^^ rotr u 18 ^^^ shr u 3

/-- σ1 (42_scheduler.md R98). -/
def smallSigma1 (u : Word) : Word := rotr u 17 ^^^ rotr u 19 ^^^ shr u 10

/-- The sum of the recurrence: `σ1(W[t-2]) + W[t-7] + σ0(W[t-15]) + W[t-16]`, mod 2^32 (42_scheduler.md R99). -/
def scheduleSum (w2 w7 w15 w16 : Word) : Word :=
  add32 (add32 (add32 (smallSigma1 w2) w7) (smallSigma0 w15)) w16

/-! ### The pure function -/

/-- The first `16 + k` words of the schedule of a block (42_scheduler.md R99). -/
def scheduleWords (block : Block) : Nat → List Word
  | 0 => block.toList
  | k + 1 =>
    let Wv := scheduleWords block k
    Wv ++ [scheduleSum (Wv.getD (14 + k) 0) (Wv.getD (9 + k) 0) (Wv.getD (1 + k) 0) (Wv.getD k 0)]

theorem scheduleWords_length (block : Block) (k : Nat) : (scheduleWords block k).length = 16 + k := by
  induction k with
  | zero => simp [scheduleWords]
  | succ k ih => simp [scheduleWords, ih]; omega

/-- `expand : block -> schedule`, total and pure (42_scheduler.md R96, R99, R100). -/
@[irreducible] def expand (block : Block) : Schedule :=
  ⟨⟨scheduleWords block 48⟩, by simpa using scheduleWords_length block 48⟩

/-! ### The micro-operation (42_scheduler.md R101) -/

/-- `for t in 0..15: W[t] <- M[t]`. -/
@[irreducible] def copyBlock (M : Block) (W : Schedule) : Schedule :=
  forUpTo 16 (fun t W => W.set t.val M[t]) W

/-- `for t in 16..63: W[t] <- sigma1(W[t-2]) + W[t-7] + sigma0(W[t-15]) + W[t-16]`, with `t = 16 + k`. -/
@[irreducible] def extendSchedule (W : Schedule) : Schedule :=
  forUpTo 48 (fun k W => W.set (16 + k.val) (scheduleSum W[14 + k.val] W[9 + k.val] W[1 + k.val] W[k.val])) W

/-- SCHED: fill the schedule memory from the block buffer (42_scheduler.md R101). `M` is not changed. -/
def State.sched (s : State) : State := { s with W := extendSchedule (copyBlock s.M s.W) }

end Sys2Proof.Machine
end

