-- ==== Sys2Proof/Machine/Compression.lean ====
section
/-! DEFINITION. The CompressionEngine (43_compression.md): the word functions, one round, the pure function `compress`, and the
micro-operations ROUND, FOLD and PROCBLK. Loops of literal length are named and irreducible, so that no unification runs them; the
kernel still evaluates them. -/

namespace Sys2Proof.Machine

/-- Σ0 (43_compression.md R104). -/
def bigSigma0 (a : Word) : Word := rotr a 2 ^^^ rotr a 13 ^^^ rotr a 22

/-- Σ1 (43_compression.md R105). -/
def bigSigma1 (e : Word) : Word := rotr e 6 ^^^ rotr e 11 ^^^ rotr e 25

/-- Ch, choose (43_compression.md R106). -/
def ch (e f g : Word) : Word := (e &&& f) ^^^ (~~~e &&& g)

/-- Maj, majority (43_compression.md R107). -/
def maj (a b c : Word) : Word := (a &&& b) ^^^ (a &&& c) ^^^ (b &&& c)

/-- `T1 = h + Σ1(e) + Ch(e,f,g) + k + w`, mod 2^32 (43_compression.md R108). -/
def roundT1 (v : Words8) (k w : Word) : Word :=
  add32 (add32 (add32 (add32 v[7] (bigSigma1 v[4])) (ch v[4] v[5] v[6])) k) w

/-- `T2 = Σ0(a) + Maj(a,b,c)`, mod 2^32 (43_compression.md R108). -/
def roundT2 (v : Words8) : Word := add32 (bigSigma0 v[0]) (maj v[0] v[1] v[2])

/-- `round([a,b,c,d,e,f,g,h], k, w) = [T1+T2, a, b, c, d+T1, e, f, g]` (43_compression.md R108). -/
def round (v : Words8) (k w : Word) : Words8 :=
  let T1 := roundT1 v k w
  #v[add32 T1 (roundT2 v), v[0], v[1], v[2], add32 v[3] T1, v[4], v[5], v[6]]

/-! ### The pure function -/

/-- `v(t)`: the working values after `t` rounds that start from `S` (43_compression.md R110). -/
def roundsFrom (S : Words8) (Wv Kv : Schedule) : Nat → Words8
  | 0 => S
  | t + 1 => round (roundsFrom S Wv Kv t) (Kv.toList.getD t 0) (Wv.toList.getD t 0)

/-- `v(64)`: the working values after all rounds (43_compression.md R110). -/
@[irreducible] def workingAfter (S : Words8) (Wv Kv : Schedule) : Words8 := roundsFrom S Wv Kv 64

/-- Word-wise sum of two states, each word mod 2^32 (43_compression.md R110). -/
def addWords (S v : Words8) : Words8 :=
  #v[add32 S[0] v[0], add32 S[1] v[1], add32 S[2] v[2], add32 S[3] v[3],
     add32 S[4] v[4], add32 S[5] v[5], add32 S[6] v[6], add32 S[7] v[7]]

/-- `compress(S, Wv, Kv)` (43_compression.md R110). -/
@[irreducible] def compress (S : Words8) (Wv Kv : Schedule) : Words8 := addWords S (workingAfter S Wv Kv)

/-! ### The micro-operations -/

/-- The new working registers of ROUND(t), with `K[t]` of the ROM and `W[t]` of the schedule memory (43_compression.md R108). -/
def roundStep (W : Schedule) (t : Fin 64) (x : Words8) : Words8 := round x Config.K[t] W[t]

/-- ROUND(t): one step of the compression, with `K[t]` of the ROM and `W[t]` of the schedule memory (43_compression.md R108). -/
def State.round (s : State) (t : Fin 64) : State := { s with x := roundStep s.W t s.x }

/-- `for t in 0..63: ROUND(t)`, on the working registers, which are all that ROUND writes (43_compression.md R109). -/
@[irreducible] def roundLoop (W : Schedule) (x : Words8) : Words8 := forUpTo 64 (roundStep W) x

/-- `for i in 0..7: x[i] <- H[i]` (43_compression.md R109). -/
@[irreducible] def copyWords (src dst : Words8) : Words8 := forUpTo 8 (fun i v => v.set i.val src[i]) dst

/-- PROCBLK's load of the working registers (43_compression.md R109). -/
def State.loadWorking (s : State) : State := { s with x := copyWords s.H s.x }

/-- `for t in 0..63: ROUND(t)` (43_compression.md R109). -/
def State.rounds (s : State) : State := { s with x := roundLoop s.W s.x }

/-- `for i in 0..7: H[i] <- H[i] + x[i]`, each sum mod 2^32 (43_compression.md R111). -/
@[irreducible] def foldWords (x H : Words8) : Words8 := forUpTo 8 (fun i H => H.set i.val (add32 H[i] x[i])) H

/-- FOLD: `for i in 0..7: H[i] <- H[i] + x[i]`, mod 2^32 (43_compression.md R111). -/
def State.fold (s : State) : State := { s with H := foldWords s.x s.H }

/-- `for j in 0..15: M[j] <- 0` (43_compression.md R109, 41_preprocessor.md R81). -/
@[irreducible] def zeroWords (M : Block) : Block := forUpTo 16 (fun j M => M.set j.val 0) M

/-- The clearing of the block buffer, by PROCBLK and by INIT (43_compression.md R109, 41_preprocessor.md R81). -/
def State.clearBlock (s : State) : State := { s with M := zeroWords s.M }

/-- PROCBLK: compress the block in `M` into `H`, then clear `M` (43_compression.md R109). -/
def State.procblk (s : State) : State := s.sched.loadWorking.rounds.fold.clearBlock

end Sys2Proof.Machine
end

