-- ==== Sys2Proof/Machine/Preprocessor.lean ====
section
/-! DEFINITION. The Preprocessor's commands INIT, ABSORB and FINAL and its micro-operation BYTEINS (41_preprocessor.md section 2).
Every meaning takes the state after the command word has been taken from the host, and ends in a next state. -/

namespace Sys2Proof.Machine

/-- BYTEINS(v): OR the byte into position `LEN mod 64` of the block buffer; `LEN` is not changed (41_preprocessor.md R83). -/
def State.byteIns (s : State) (v : Byte) : State :=
  let p := bytePos s.LEN
  { s with M := s.M.set (byteWord p) (s.M[byteWord p] ||| (v.setWidth 32 <<< laneShift p)) }

/-- INIT's `for i in 0..7: H[i] <- H0[i]` (41_preprocessor.md R81). -/
def State.loadInitial (s : State) : State := { s with H := copyWords Config.H0 s.H }

/-- INIT (41_preprocessor.md R81). `W` and `x` are not written. -/
def execInit (s : State) : Host.Outcome State Fault Refusal :=
  let s := s.loadInitial.clearBlock
  let s := { s with LEN := 0 }
  let s := s.clearTrapRecord
  let s := { s with PHASE := .absorbing }
  .next (s.respond (okResponse 0))

/-- The effect of an ABSORB that raises nothing, without its response: the byte is placed, `LEN` counts it, and the 64th byte of a
block has the block compressed (41_preprocessor.md R84, R85). -/
def State.absorbByte (s : State) (v : Byte) : State :=
  let p := bytePos s.LEN
  let s := s.byteIns v
  let s := { s with LEN := s.LEN + 1 }
  if p = 63 then s.procblk else s

/-- ABSORB c (41_preprocessor.md R85): the three tests in order, then the effect. -/
def execAbsorb (c : Element) (s : State) : Host.Outcome State Fault Refusal :=
  if s.PHASE ≠ .absorbing then .next (s.takeTrap .sequenceError)
  else if ¬ validElement c then .next (s.takeTrap (.invalidByte c))
  else if lengthFull s.LEN then .next (s.takeTrap (.lengthOverflow c))
  else .next ((s.absorbByte (elementByte c)).respond (okResponse 0))

/-- `M[14] <- L[63:32]`, `M[15] <- L[31:0]` (41_preprocessor.md R88). -/
def State.writeLength (s : State) (L : BitVec 64) : State :=
  { s with M := (s.M.set 14 (lengthHigh L)).set 15 (lengthLow L) }

/-- The effect of a FINAL that raises nothing, without its response (41_preprocessor.md R88). -/
def State.finish (s : State) : State :=
  let p := bytePos s.LEN
  let L := bitLength s.LEN
  let s := s.byteIns 0x80
  let s := if 56 ≤ p.val then s.procblk else s
  let s := s.writeLength L
  let s := s.procblk
  { s with PHASE := .done }

/-- FINAL (41_preprocessor.md R88). `LEN` is not changed. -/
def execFinal (s : State) : Host.Outcome State Fault Refusal :=
  if s.PHASE ≠ .absorbing then .next (s.takeTrap .sequenceError)
  else .next (s.finish.respond (okResponse 0))

end Sys2Proof.Machine
end

