-- ==== Sys2Proof/Machine/Encoder.lean ====
section
/-! DEFINITION. The Encoder (44_encoder.md): the micro-operation HEXNIB, the command RDHEX, and the pure function `encode` of a
digest. -/

namespace Sys2Proof.Machine

/-- The character code of a hex digit: `if v < 10 then 0x30 + v else 0x57 + v`, 8 bits (44_encoder.md R120). -/
def hexCode (v : BitVec 4) : Byte := if v < 10 then 0x30 + v.setWidth 8 else 0x57 + v.setWidth 8

/-- HEXNIB(i): the code of digest character `i` (44_encoder.md R119, R120). -/
def State.hexnib (s : State) (i : BitVec 6) : Byte := hexCode (nibble s.H i)

/-- RDHEX i (44_encoder.md R121). No state is written. -/
def execRdhex (i : BitVec 6) (s : State) : Host.Outcome State Fault Refusal :=
  if s.PHASE ≠ .done then .next (s.takeTrap .sequenceError)
  else .next (s.respond (okResponse ((s.hexnib i).setWidth 32)))

/-! ### The pure function -/

/-- The character of a hex digit, `0` to `9` and `a` to `f` (44_encoder.md R118). -/
def hexDigit (v : BitVec 4) : Char :=
  ['0', '1', '2', '3', '4', '5', '6', '7', '8', '9', 'a', 'b', 'c', 'd', 'e', 'f'].getD v.toNat '0'

/-- `encode(S)`: the 64 characters of a digest, character 0 first (44_encoder.md R117, R118). -/
def encodeDigest (S : Words8) : List Char :=
  (List.range 64).map (fun i => hexDigit (nibble S (BitVec.ofNat 6 i)))

end Sys2Proof.Machine
end

