-- ==== Sys2Proof/Machine/Control.lean ====
section
/-! DEFINITION. The system command RDSTAT (45_control.md R131) and what an illegal word does (60_exceptions.md R142). -/

namespace Sys2Proof.Machine

/-- RDSTAT: answer the STATUS view, in every phase (45_control.md R131). No state is written. -/
def execRdstat (s : State) : Host.Outcome State Fault Refusal := .next (s.respond (okResponse s.status))

/-- A word that decodes to ILLEGAL raises IllegalCommand, whichever test refused it (30_encoding.md R63, 60_exceptions.md R142). -/
def execIllegal (_why : Illegal) (s : State) : Host.Outcome State Fault Refusal := .next (s.takeTrap .illegalCommand)

end Sys2Proof.Machine
end

