-- ==== Sys2Proof/Machine/Dispatch.lean ====
section
/-! DEFINITION. Which meaning each command has: the dispatch of 45_control.md R125, one arm per constructor. -/

namespace Sys2Proof.Machine

def exec (i : Instr) (s : State) : Host.Outcome State Fault Refusal :=
  match i with
  | .init => Sys2Proof.Machine.execInit s
  | .absorb c => Sys2Proof.Machine.execAbsorb c s
  | .final => Sys2Proof.Machine.execFinal s
  | .rdhex k => Sys2Proof.Machine.execRdhex k s
  | .rdstat => Sys2Proof.Machine.execRdstat s

end Sys2Proof.Machine
end

