-- ==== Sys2Proof/Machine/Sequencer.lean ====
section
/-! DEFINITION. The command sequencer (45_control.md R125): take the next input of the host, decode it, run it. -/

namespace Sys2Proof.Machine

/-- One command, from its word (45_control.md R125): an illegal word raises IllegalCommand, a legal one runs its meaning. -/
def runWord (w : Word) (s : State) : Host.Outcome State Fault Refusal :=
  match decode w with
  | .ok i => exec i s
  | .error why => execIllegal why s

/-- One input from outside: a command word (45_control.md R125), a reset (70_reset_and_hazards.md R156), or the removal of power
(60_exceptions.md R154). -/
def runInput (a : HostInput) (s : State) : Host.Outcome State Fault Refusal :=
  match a with
  | .command w => runWord w s
  | .reset => .next s.applyReset
  | .removePower => .next s.losePower

/-- Take the next input and run it. With no input "the core is idle and its state is constant" (45_control.md R125). -/
def runNext (s : State) : Host.Outcome State Fault Refusal :=
  match s.inbox with
  | [] => .next s
  | a :: rest => runInput a { s with inbox := rest }

/-- The host offers one more command, to be taken next (log 3). -/
def State.offerWord (s : State) (w : Word) : State := { s with inbox := .command w :: s.inbox }

end Sys2Proof.Machine
end

