-- ==== Sys2Proof/Machine/Step.lean ====
section
/-! DEFINITION. The step of the machine (45_control.md R125), and how a command is placed where the next step takes it. -/

namespace Sys2Proof.Machine

/-- One step: the next input of the host, each an atomic transition (00_scope.md R6, 45_control.md R125). -/
def step (s : State) : Host.Outcome State Fault Refusal := runNext s

/-- `s` with the command of an opcode-table row at the head of the host's inputs, so that the very next step runs it (log 3). -/
def State.withFetchWord (s : State) (nbits w : Nat) : State := s.offerWord (tableWord nbits w)

end Sys2Proof.Machine
end

