-- ==== Sys2Proof/Machine/Digest.lean ====
section
/-! DEFINITION. The source's functions over a whole message, which the commands compute one element at a time: `pad`
(41_preprocessor.md section 1), `hash` (43_compression.md R112), `computeDigestHex` (45_control.md R132), and the message of the
host's `buildApiSignature` (00_scope.md R5). All are pure (R14). -/

namespace Sys2Proof.Machine

/-- Why a message has no digest. -/
inductive DigestError where
  /-- An element above 255: the source's `InvalidByteError` (41_preprocessor.md R79, R82). -/
  | invalidByte
  /-- More than 2^61 - 1 bytes: `pad` and `hash` are undefined there, so they have no result (41_preprocessor.md R94; log 14). -/
  | messageTooLong
  deriving DecidableEq, Repr

/-- Validation (41_preprocessor.md R82): the bytes of a valid sequence. -/
def messageBytes (C : List Element) : Except DigestError (List Byte) :=
  if C.all validElement then .ok (C.map elementByte) else .error .invalidByte

/-- `z = (55 - n) mod 64`, the number of zero bytes (41_preprocessor.md R80). -/
def zeroCount (n : Nat) : Nat := ((55 - (n : Int)) % 64).toNat

/-- The eight bytes of the length field, most significant first (41_preprocessor.md R80, 20_memory.md R43). -/
def lengthBytes (L : BitVec 64) : List Byte :=
  [L.extractLsb' 56 8, L.extractLsb' 48 8, L.extractLsb' 40 8, L.extractLsb' 32 8,
   L.extractLsb' 24 8, L.extractLsb' 16 8, L.extractLsb' 8 8, L.extractLsb' 0 8]

/-- `P` of 41_preprocessor.md R80: the message, the terminator, the zeros, the length field. Defined for at most 2^61 - 1 bytes, whose
bit length fits 64 bits; for a longer message there is no result, and the length is never wrapped (R94; log 14). -/
def paddedBytes (B : List Byte) : Except DigestError (List Byte) :=
  if B.length ≤ Config.maxMsgBytes then
    .ok (B ++ [0x80] ++ List.replicate (zeroCount B.length) 0 ++ lengthBytes (BitVec.ofNat 64 (8 * B.length)))
  else .error .messageTooLong

/-- `word(k) = {P[4k], P[4k+1], P[4k+2], P[4k+3]}` (41_preprocessor.md R80, 20_memory.md R42). -/
def packWord (P : List Byte) (k : Nat) : Word :=
  P.getD (4 * k) 0 ++ P.getD (4 * k + 1) 0 ++ P.getD (4 * k + 2) 0 ++ P.getD (4 * k + 3) 0

/-- `block(j) = [word(16j), ..., word(16j+15)]` (41_preprocessor.md R80). -/
def packBlock (P : List Byte) (j : Nat) : Block :=
  #v[packWord P (16 * j), packWord P (16 * j + 1), packWord P (16 * j + 2), packWord P (16 * j + 3),
     packWord P (16 * j + 4), packWord P (16 * j + 5), packWord P (16 * j + 6), packWord P (16 * j + 7),
     packWord P (16 * j + 8), packWord P (16 * j + 9), packWord P (16 * j + 10), packWord P (16 * j + 11),
     packWord P (16 * j + 12), packWord P (16 * j + 13), packWord P (16 * j + 14), packWord P (16 * j + 15)]

/-- The complete 64-byte blocks of a byte sequence, packed big-endian (10_state.md R39). -/
def completeBlocks (P : List Byte) : List Block := (List.range (P.length / 64)).map (packBlock P)

/-- `pad(B)` on a valid sequence (41_preprocessor.md R80), defined up to 2^61 - 1 bytes (R94). -/
def pad (B : List Byte) : Except DigestError (List Block) := (paddedBytes B).map completeBlocks

/-- `pad : sequence<byte> -> sequence<Block>` with its failure (41_preprocessor.md R79). -/
def padElements (C : List Element) : Except DigestError (List Block) := (messageBytes C).bind pad

/-- Fold one block into a state: `compress(S, expand(blk), K)` (43_compression.md R112). -/
def foldBlock (S : Words8) (blk : Block) : Words8 := compress S (expand blk) Config.K

/-- `hash(B)` (43_compression.md R112), defined where `pad(B)` is. -/
def hash (B : List Byte) : Except DigestError Words8 := (pad B).map (fun blocks => blocks.foldl foldBlock Config.H0)

/-- `computeDigestHex(C)` (45_control.md R132). -/
def computeDigestHex (C : List Element) : Except DigestError (List Char) :=
  ((messageBytes C).bind hash).map encodeDigest

/-- The decimal digits of a number as character codes (00_scope.md R5). R5 calls the number of seconds an integer and does not say how
a negative one is written; DESIGN CHOICE (log 18): the domain is the natural numbers, written without sign or leading zeros. -/
def decimalString (n : Nat) : List Element := (Nat.toDigits 10 n).map (fun c => BitVec.ofNat 16 c.toNat)

/-- The message of `buildApiSignature`: `apiKey ++ secret ++ decimal_string(timestamp)`, no separators (00_scope.md R5). -/
def signMessage (apiKey secret : List Element) (timestampSeconds : Nat) : List Element :=
  apiKey ++ secret ++ decimalString timestampSeconds

/-- `buildApiSignature(apiKey, secret, timestampSeconds)`, host software (00_scope.md R4, R5; log 18). -/
def buildApiSignature (apiKey secret : List Element) (timestampSeconds : Nat) : Except DigestError (List Char) :=
  computeDigestHex (signMessage apiKey secret timestampSeconds)

end Sys2Proof.Machine
end

