-- ==== Sys2Proof/Machine/Assembler.lean ====
section
/-! DEFINITION. The textual form of command sequences and its pseudo-commands (30_encoding.md R68 to R71), down to command words. -/

namespace Sys2Proof.Machine

/-- One line, operands as the numbers written (30_encoding.md R68 to R71). -/
inductive AsmLine where
  /-- `INIT` -/
  | init
  /-- `ABSORB c` -/
  | absorb (c : Nat)
  /-- `FINAL` -/
  | final
  /-- `RDHEX i` -/
  | rdhex (i : Nat)
  /-- `RDSTAT` -/
  | rdstat
  /-- `.word v`: a raw word, legal or not. -/
  | rawWord (v : Nat)
  /-- `ABSORBS "s"`, the character codes of s (R69). -/
  | absorbs (codes : List Nat)
  /-- `DIGEST` (R70). -/
  | digest
  /-- `HASH "s"` (R71). -/
  | hash (codes : List Nat)
  deriving DecidableEq, Repr

/-- A character code that ABSORB can carry (30_encoding.md R68: `0 <= c <= 65535`). -/
def codeInRange (c : Nat) : Bool := decide (c ≤ 65535)

/-- Every operand in its range (30_encoding.md R68). -/
def AsmLine.inRange : AsmLine → Bool
  | .init => true
  | .absorb c => codeInRange c
  | .final => true
  | .rdhex i => decide (i ≤ 63)
  | .rdstat => true
  | .rawWord v => decide (v < 2 ^ 32)
  | .absorbs codes => codes.all codeInRange
  | .digest => true
  | .hash codes => codes.all codeInRange

/-- `ABSORBS`: one ABSORB per element, in order (30_encoding.md R69). -/
def absorbCommands (C : List Element) : List Instr := C.map Instr.absorb

/-- `DIGEST`: `RDHEX 0` to `RDHEX 63` (30_encoding.md R70). -/
def digestCommands : List Instr := (List.range 64).map (fun i => Instr.rdhex (BitVec.ofNat 6 i))

/-- `INIT`, the elements, `FINAL`: a computation without its reads (41_preprocessor.md R92). -/
def messageCommands (C : List Element) : List Instr := .init :: absorbCommands C ++ [.final]

/-- `HASH`: `INIT`, `ABSORBS`, `FINAL`, `DIGEST` (30_encoding.md R71, 45_control.md R133). -/
def hashCommands (C : List Element) : List Instr := messageCommands C ++ digestCommands

/-- Commands as the inputs a host sends. -/
def sendCommands (is : List Instr) : List HostInput := is.map (fun i => HostInput.command (encode i))

/-- Codes as elements; every code is in range where it is used. -/
def asElements (codes : List Nat) : List Element := codes.map (BitVec.ofNat 16)

/-- The words of one line; `none` is an assembly error (30_encoding.md R68: "an operand outside its range is an assembly error"). -/
def AsmLine.words (line : AsmLine) : Option (List Word) :=
  if line.inRange then
    some (match line with
      | .init => [encode .init]
      | .absorb c => [encode (.absorb (BitVec.ofNat 16 c))]
      | .final => [encode .final]
      | .rdhex i => [encode (.rdhex (BitVec.ofNat 6 i))]
      | .rdstat => [encode .rdstat]
      | .rawWord v => [BitVec.ofNat 32 v]
      | .absorbs codes => (absorbCommands (asElements codes)).map encode
      | .digest => digestCommands.map encode
      | .hash codes => (hashCommands (asElements codes)).map encode)
  else none

/-! ### Reading a line (log 13) -/

/-- A blank between the parts of a line. -/
def isBlank (c : Char) : Bool := c == ' ' || c == '\t'

/-- Blanks removed from the front. -/
def skipBlanks (cs : List Char) : List Char := cs.dropWhile isBlank

/-- A part of a line ends at a blank or at the `;` of a comment. -/
def inToken (c : Char) : Bool := !(isBlank c) && c != ';'

/-- The value of a digit in the given base. -/
def digitValue (base : Nat) (c : Char) : Option Nat :=
  let v :=
    if '0' ≤ c ∧ c ≤ '9' then c.toNat - 0x30
    else if 'a' ≤ c ∧ c ≤ 'f' then c.toNat - 0x57
    else if 'A' ≤ c ∧ c ≤ 'F' then c.toNat - 0x37
    else base
  if v < base then some v else none

/-- Digits after an accumulated value. -/
def readDigits (base : Nat) : List Char → Nat → Option Nat
  | [], acc => some acc
  | c :: cs, acc =>
    match digitValue base c with
    | some v => readDigits base cs (base * acc + v)
    | none => none

/-- "Numbers are decimal or `0x` hexadecimal" (30_encoding.md R68). -/
def readNumber : List Char → Option Nat
  | [] => none
  | '0' :: 'x' :: [] => none
  | '0' :: 'x' :: cs => readDigits 16 cs 0
  | cs => readDigits 10 cs 0

/-- Nothing but blanks and a comment is left. -/
def lineEnds (cs : List Char) : Bool :=
  match skipBlanks cs with
  | [] => true
  | c :: _ => c == ';'

/-- A number operand, to the end of the line. -/
def readNumberOperand (cs : List Char) : Option Nat :=
  let cs := skipBlanks cs
  if lineEnds (cs.dropWhile inToken) then readNumber (cs.takeWhile inToken) else none

/-- ABSORB's operand: a number, or a single character in single quotes, standing for its code (30_encoding.md R68). -/
def readElementOperand (cs : List Char) : Option Nat :=
  match skipBlanks cs with
  | '\'' :: c :: '\'' :: rest => if lineEnds rest then some c.toNat else none
  | _ => readNumberOperand cs

/-- A string in double quotes, as the codes of its characters (30_encoding.md R69). -/
def readStringOperand (cs : List Char) : Option (List Nat) :=
  match skipBlanks cs with
  | '"' :: rest =>
    match rest.dropWhile (· != '"') with
    | '"' :: tail => if lineEnds tail then some ((rest.takeWhile (· != '"')).map Char.toNat) else none
    | _ => none
  | _ => none

/-- One line of text (30_encoding.md R68): `some none` for a line with no command, `none` for text that is no line. A line with no
command holds nothing but blanks or a comment; R68 says "one command per line", and that a comment line, and an empty or all-blank
line, is accepted and stands for no words is a DESIGN CHOICE (log 13). -/
def readLine (cs : List Char) : Option (Option AsmLine) :=
  let cs := skipBlanks cs
  if lineEnds cs then some none
  else
    let mnemonic := cs.takeWhile inToken
    let rest := cs.dropWhile inToken
    let plain (l : AsmLine) : Option (Option AsmLine) := if lineEnds rest then some (some l) else none
    if mnemonic = ['I', 'N', 'I', 'T'] then plain .init
    else if mnemonic = ['A', 'B', 'S', 'O', 'R', 'B'] then (readElementOperand rest).map (fun c => some (.absorb c))
    else if mnemonic = ['F', 'I', 'N', 'A', 'L'] then plain .final
    else if mnemonic = ['R', 'D', 'H', 'E', 'X'] then (readNumberOperand rest).map (fun i => some (.rdhex i))
    else if mnemonic = ['R', 'D', 'S', 'T', 'A', 'T'] then plain .rdstat
    else if mnemonic = ['.', 'w', 'o', 'r', 'd'] then (readNumberOperand rest).map (fun v => some (.rawWord v))
    else if mnemonic = ['A', 'B', 'S', 'O', 'R', 'B', 'S'] then (readStringOperand rest).map (fun s => some (.absorbs s))
    else if mnemonic = ['D', 'I', 'G', 'E', 'S', 'T'] then plain .digest
    else if mnemonic = ['H', 'A', 'S', 'H'] then (readStringOperand rest).map (fun s => some (.hash s))
    else none

/-- The words of one line of text; `none` is an assembly error. -/
def assembleLine (cs : List Char) : Option (List Word) :=
  match readLine cs with
  | none => none
  | some none => some []
  | some (some line) => line.words

/-- The words of a program, one line of text each; one bad line refuses the whole. -/
def assemble : List (List Char) → Option (List Word)
  | [] => some []
  | l :: ls =>
    match assembleLine l, assemble ls with
    | some ws, some rest => some (ws ++ rest)
    | _, _ => none

end Sys2Proof.Machine
end

