-- ==== Sys2Proof/Machine/Blocks.lean ====
section
/-! DEFINITION. Which blocks a command, and a run, compress: the value of `M` at the start of each PROCBLK, in order
(41_preprocessor.md R84, R92). Nothing of the machine depends on it; claims about the number and contents of PROCBLKs are stated in
its terms, and one of them ties it to `H`. -/

namespace Sys2Proof.Machine

/-- The blocks FINAL compresses (41_preprocessor.md R88): two when `p >= 56`, else one. -/
def finalBlocks (s : State) : List Block :=
  let L := bitLength s.LEN
  let s := s.byteIns 0x80
  if 56 ≤ (bytePos s.LEN).val then [s.M, (s.procblk.writeLength L).M] else [(s.writeLength L).M]

/-- The blocks one command compresses (43_compression.md R109: at most one per ABSORB, at most two per FINAL, none otherwise). -/
def blocksOfCommand (i : Instr) (s : State) : List Block :=
  match i with
  | .init => []
  | .absorb c =>
    if s.PHASE = .absorbing ∧ validElement c ∧ ¬ lengthFull s.LEN ∧ bytePos s.LEN = 63 then
      [(s.byteIns (elementByte c)).M]
    else []
  | .final => if s.PHASE = .absorbing then finalBlocks s else []
  | .rdhex _ => []
  | .rdstat => []

/-- The blocks the next step compresses. -/
def blocksOfStep (s : State) : List Block :=
  match s.inbox with
  | [] => []
  | .reset :: _ => []
  | .removePower :: _ => []
  | .command w :: _ =>
    match decode w with
    | .ok i => blocksOfCommand i s
    | .error _ => []

/-- The blocks `k` steps compress, in order. -/
def blocksOfRun : Nat → State → List Block
  | 0, _ => []
  | k + 1, s =>
    blocksOfStep s ++
      match step s with
      | .next s' => blocksOfRun k s'
      | .fault _ => []
      | .refused _ => []

/-- The next `k` states of a run all exist, and `t` is the last one. -/
def Reaches (k : Nat) (s t : State) : Prop := Sys2Proof.core.run k s = .next t

end Sys2Proof.Machine
end

