-- ==== Sys2Proof/Machine/Pins.lean ====
section
/-! DEFINITION. The core at its pins (70_reset_and_hazards.md sections 1, 3 and 5): one rising clock edge after another, with the
command and response handshakes, reset, and an open latency. A layer around the transaction-level machine: it accepts command words
and hands them to `runWord`; the transaction-level rules do not depend on it. -/

namespace Sys2Proof

/-- OPEN: how many clock edges pass after the one that accepts a command before `rsp_valid` changes to 1. `LATENCY(cmd, state)` is
any finite number >= 1 (00_scope.md R7, 70_reset_and_hazards.md R172), and the spec does not say whether it counts to the edge at which
`rsp_valid` changes or to the first edge that samples it as 1. DESIGN CHOICE (log 9): to the sampling edge, so this is
`LATENCY - 1`, which may be 0; a core of the other reading is one with this value at least 1. -/
opaque Config.latency : Word → Machine.State → Nat

namespace Machine.Pins

/-- The input pins as sampled at one rising edge of `clk` (70_reset_and_hazards.md R165). -/
structure PinsIn where
  rst : Bool
  cmdValid : Bool
  cmd : Word
  rspReady : Bool
  deriving DecidableEq, Repr

/-- The output pins before that edge (70_reset_and_hazards.md R165). -/
structure PinsOut where
  cmdReady : Bool
  rspValid : Bool
  rspErr : Bool
  rspData : Word
  deriving DecidableEq, Repr

/-- Where the handshake stands. -/
inductive Ctl where
  /-- No reset has come since power was last off: the whole state is undefined (R159). -/
  | unreset
  /-- `cmd_ready` rises after `n + 1` more edges (R169, R174). -/
  | settling (n : Nat)
  /-- `cmd_ready = 1`. -/
  | ready
  /-- A command is in the core; `rsp_valid` rises after `n + 1` more edges (R172; log 9). -/
  | busy (n : Nat)
  /-- `rsp_valid = 1`, until the transfer (R168). -/
  | responding
  deriving DecidableEq, Repr

/-- The core with its handshake. The command in progress takes its effect at the edge that accepts it and its response is the last of
`core.outbox`; a host cannot tell (R169; log 9). -/
structure PinState where
  core : State
  ctl : Ctl
  /-- The word the host holds on `cmd` with `cmd_valid = 1`, not accepted yet (R167). -/
  offered : Option Word
  /-- Clock edges so far: the model's own counter, for the free values of logs 10 and 11. -/
  edges : Nat
  deriving DecidableEq, Repr

/-- Power has just come on (70_reset_and_hazards.md R159): no reset yet. Nothing is said of `core`. -/
def PinState.powerOn (core : State) : PinState := ⟨core, .unreset, none, 0⟩

/-- After `n` further edges `cmd_ready` is 1. -/
def settleFor : Nat → Ctl
  | 0 => .ready
  | n + 1 => .settling n

/-- After `n` further edges `rsp_valid` is 1. -/
def busyFor : Nat → Ctl
  | 0 => .responding
  | n + 1 => .busy n

/-- A command is in the core: accepted, its response not transferred (R169). -/
def Ctl.inFlight : Ctl → Bool
  | .unreset => false
  | .settling _ => false
  | .ready => false
  | .busy _ => true
  | .responding => true

/-- The response offered while `rsp_valid = 1`: the last one produced. -/
def PinState.response (p : PinState) : Response := p.core.outbox.getLast?.getD ⟨Config.idleErr p.edges, Config.idleData p.edges⟩

/-- The output pins, given `rst`: while `rst = 1`, `cmd_ready = 0` and `rsp_valid = 0` (R171); before the first reset nothing is
said (R159), hence `none`. `cmd_ready` does not depend on `cmd_valid` (R167). -/
def PinState.outputs (p : PinState) (rst : Bool) : Option PinsOut :=
  if p.ctl = .unreset then none
  else if rst then some ⟨false, false, Config.idleErr p.edges, Config.idleData p.edges⟩
  else if p.ctl = .responding then some ⟨false, true, p.response.err, p.response.data⟩
  else some ⟨decide (p.ctl = .ready), false, Config.idleErr p.edges, Config.idleData p.edges⟩

/-- The host keeps R167: what it offered and has not had accepted, it still offers. -/
def PinState.hostKeepsOffer (p : PinState) (a : PinsIn) : Bool :=
  match p.offered with
  | none => true
  | some w => a.cmdValid && a.cmd == w

/-- The word offered after an edge that accepts nothing. -/
def stillOffered (a : PinsIn) : Option Word := if a.cmdValid then some a.cmd else none

/-- The core with a command in progress abandoned, and its response dropped (R157; log 19). -/
def PinState.abandon (p : PinState) : State :=
  if p.ctl.inFlight then { p.core with outbox := p.core.outbox.dropLast } else p.core

/-- An edge with `rst = 1` (R156, R157, R171): a command in progress is abandoned, its response is dropped, and the state is that of
reset. -/
def PinState.resetEdge (p : PinState) : PinState :=
  { core := p.abandon.applyReset, ctl := settleFor (Config.settleCycles p.edges), offered := none, edges := p.edges + 1 }

/-- A command is accepted at this edge: `rst = 0`, `cmd_valid = 1`, `cmd_ready = 1` (R167). -/
def PinState.accepts (p : PinState) (a : PinsIn) : Bool := !a.rst && a.cmdValid && decide (p.ctl = .ready)

/-- A response is transferred at this edge: `rst = 0`, `rsp_valid = 1`, `rsp_ready = 1` (R168). -/
def PinState.transfers (p : PinState) (a : PinsIn) : Bool := !a.rst && a.rspReady && decide (p.ctl = .responding)

/-- The edge that accepts a command (R167): the command is run, and its response is due after the open latency (R172). That the effect
lands at this edge, and that `rsp_valid` may be sampled as 1 at the very next one, are DESIGN CHOICES (log 9). -/
def PinState.acceptEdge (p : PinState) (w : Word) : Host.Outcome PinState Fault Refusal :=
  match runWord w p.core with
  | .next core => .next { core := core, ctl := busyFor (Config.latency w p.core), offered := none, edges := p.edges + 1 }
  | .fault r => .fault r
  | .refused r => .refused r

/-- An edge that neither resets nor accepts: the counts run down, and a transfer makes room for the next command (R168, R169). That
`cmd_ready`, once risen, stays 1 until a command is accepted or a reset comes is a DESIGN CHOICE (log 23); that `rsp_valid` stays 1
until the transfer is DEDUCED from R168 (log 23). -/
def PinState.waitEdge (p : PinState) (a : PinsIn) : PinState :=
  let ctl := match p.ctl with
    | .unreset => .unreset
    | .settling n => settleFor n
    | .ready => .ready
    | .busy n => busyFor n
    | .responding => if a.rspReady then settleFor (Config.settleCycles p.edges) else .responding
  { p with ctl := ctl, offered := stillOffered a, edges := p.edges + 1 }

/-- One rising edge of `clk` (R165 to R171). Reset overrides everything (R157). Before the first reset a run has no meaning (R159);
a host that breaks the handshake has no move (45_control.md R135). -/
def edge (p : PinState) (a : PinsIn) : Host.Outcome PinState Fault Refusal :=
  if a.rst then .next p.resetEdge
  else if p.ctl = .unreset then .refused .beforeFirstReset
  else if ¬ p.hostKeepsOffer a then .fault .hostBrokeHandshake
  else if p.accepts a then p.acceptEdge a.cmd
  else .next (p.waitEdge a)

/-- Power is removed, between two edges: "the same as reset followed by loss of the 'unspecified' registers" (60_exceptions.md R154).
When power is applied again nothing has a meaning until a reset (R159), so the handshake stands before the first reset once more. -/
def PinState.removePower (p : PinState) : PinState := { p with core := p.abandon.losePower, ctl := .unreset, offered := none }

/-- What can happen to the core at its pins. -/
inductive Event where
  /-- A rising edge of `clk`. -/
  | edge (a : PinsIn)
  /-- The platform removes power, and applies it again (log 8). -/
  | removePower
  deriving DecidableEq, Repr

/-- One event. -/
def event (p : PinState) : Event → Host.Outcome PinState Fault Refusal
  | .edge a => edge p a
  | .removePower => .next p.removePower

/-- A sequence of edges. -/
def run : PinState → List PinsIn → Host.Outcome PinState Fault Refusal
  | p, [] => .next p
  | p, a :: as =>
    match edge p a with
    | .next p' => run p' as
    | .fault r => .fault r
    | .refused r => .refused r

/-- The words accepted along a sequence of edges, in order (R167). -/
def acceptedWords : PinState → List PinsIn → List Word
  | _, [] => []
  | p, a :: as =>
    match edge p a with
    | .next p' => (if p.accepts a then [a.cmd] else []) ++ acceptedWords p' as
    | .fault _ => []
    | .refused _ => []

/-- The responses transferred along a sequence of edges, in order (R168): the values of `rsp_err` and `rsp_data` there. -/
def transferredResponses : PinState → List PinsIn → List Response
  | _, [] => []
  | p, a :: as =>
    match edge p a with
    | .next p' => (if p.transfers a then [p.response] else []) ++ transferredResponses p' as
    | .fault _ => []
    | .refused _ => []

end Machine.Pins

end Sys2Proof
end

