-- ==== Sys2Proof/Safety.lean ====
section
/-! DEFINITION. What counts as a safe state and a safe run, in the terms claims use: the invariants of 10_state.md R28, R29, R39, what
a state represents of the message taken in (R39), and which states a host cannot tell apart (R36, R37, 45_control.md R134). -/

namespace Sys2Proof.Machine

/-- The control registers agree: `CAUSE` is legal and nonzero exactly in FAILED, and `BADCHAR` is what that cause records
(10_state.md R28, R29, R39). -/
structure ControlInv (s : State) : Prop where
  causeLegal : s.CAUSE = 0 ∨ s.CAUSE = 1 ∨ s.CAUSE = 4
  causeIffFailed : s.CAUSE ≠ 0 ↔ s.PHASE = .failed
  badcharClear : s.CAUSE = 0 → s.BADCHAR = 0
  badcharInvalid : s.CAUSE = 1 → 256 ≤ s.BADCHAR.toNat
  badcharUncounted : s.CAUSE = 4 → s.BADCHAR.toNat ≤ 255

/-- The block buffer is zero where no byte has been placed: from `LEN mod 64` on while absorbing, everywhere once done
(10_state.md R39; BYTEINS relies on it, 41_preprocessor.md R83). -/
structure BufferInv (s : State) : Prop where
  tailZero : s.PHASE = .absorbing → ∀ p : Fin 64, bytePos s.LEN ≤ p → byteAt s.M p = 0
  doneZero : s.PHASE = .done → ∀ p : Fin 64, byteAt s.M p = 0

/-- The invariant of the machine between commands. -/
structure Inv (s : State) : Prop where
  control : ControlInv s
  buffer : BufferInv s

/-- Phase ABSORBING with the bytes `B` taken in since the last INIT (10_state.md R39). -/
structure Absorbed (s : State) (B : List Byte) : Prop where
  phase : s.PHASE = .absorbing
  len : s.LEN.toNat = B.length
  chained : s.H = (completeBlocks B).foldl foldBlock Config.H0
  placed : ∀ p : Fin 64, p < bytePos s.LEN → byteAt s.M p = B.getD (64 * (B.length / 64) + p.val) 0
  tailZero : ∀ p : Fin 64, bytePos s.LEN ≤ p → byteAt s.M p = 0

/-- Phase DONE with the digest of `B` (10_state.md R39). -/
structure Digested (s : State) (B : List Byte) : Prop where
  phase : s.PHASE = .done
  len : s.LEN.toNat = B.length
  digest : hash B = .ok s.H
  clear : ∀ p : Fin 64, byteAt s.M p = 0

/-- A host that sees responses only cannot tell the two states apart, now or later: they agree on the control registers, on what is
still to come and on what was answered, and on the registers that the phase lets a command read before writing (10_state.md R36,
R37). `W` and `x` are never compared. -/
structure SameToHost (s t : State) : Prop where
  phase : s.PHASE = t.PHASE
  cause : s.CAUSE = t.CAUSE
  badchar : s.BADCHAR = t.BADCHAR
  inbox : s.inbox = t.inbox
  outbox : s.outbox = t.outbox
  absorbing : s.PHASE = .absorbing → s.H = t.H ∧ s.M = t.M ∧ s.LEN = t.LEN
  done : s.PHASE = .done → s.H = t.H

/-- A run of `k` steps that neither faults nor is refused. -/
def SafeRun (k : Nat) (s : State) : Prop := ∃ t, Reaches k s t

/-- The registers and the message state that no command but its own may change: everything but the inputs and the responses. -/
def SameRegisters (s t : State) : Prop :=
  s.H = t.H ∧ s.x = t.x ∧ s.W = t.W ∧ s.M = t.M ∧ s.LEN = t.LEN ∧ s.PHASE = t.PHASE ∧ s.CAUSE = t.CAUSE ∧
  s.BADCHAR = t.BADCHAR

namespace Pins

/-- The pin layer after a reset, as every edge keeps it: outside `unreset`, and with its response at hand whenever a command is in
flight. -/
structure PinsInv (p : PinState) : Prop where
  running : p.ctl ≠ .unreset
  answered : p.ctl.inFlight = true → p.core.outbox ≠ []

/-- A response is on its way: produced, not yet transferred. -/
def pendingResponses (p : PinState) : List Response := if p.ctl.inFlight then [p.response] else []

/-- A host that keeps its offer along a sequence of edges, and never resets (70_reset_and_hazards.md R167, R174). -/
def HostBehaves : PinState → List PinsIn → Prop
  | _, [] => True
  | p, a :: as =>
    a.rst = false ∧ p.hostKeepsOffer a = true ∧
      match edge p a with
      | .next p' => HostBehaves p' as
      | .fault _ => False
      | .refused _ => False

end Pins

end Sys2Proof.Machine
end

