-- ==== Sys2Proof/Certificates/Slice0/Obligations.lean ====
section
/-! DEFINITION. The statements about the model, for the provers. Each docstring names the rule of the spec, or says that a clause is
the model's own choice. `new` responses stand at the end of `outbox`. -/

open Sys2Proof Sys2Proof.Machine

/-! ### The step and the decoder -/

/-- 45_control.md R125: a word that decodes to a command runs the command's meaning, on the state with the word taken. -/
def Obligations.StepRunsTheDecodedCommand : Prop :=
  ∀ (s : State) (w : Word) (rest : List HostInput) (i : Instr), s.inbox = .command w :: rest → decode w = .ok i →
    step s = exec i { s with inbox := rest }

/-- 60_exceptions.md R142: any word that decodes to ILLEGAL, in any phase, is answered `(1, 2)` and nothing else changes. -/
def Obligations.IllegalWordRaisesIllegalCommand : Prop :=
  ∀ (s : State) (w : Word) (rest : List HostInput) (why : Illegal), s.inbox = .command w :: rest → decode w = .error why →
    step s = .next { s with inbox := rest, outbox := s.outbox ++ [⟨true, 2⟩] }

/-- With no input the state is constant (45_control.md R125 "between steps the core is idle"; that a step exists there is log 3). -/
def Obligations.StepWithoutInputChangesNothing : Prop := ∀ s : State, s.inbox = [] → step s = .next s

/-- A reset taken in a run: `PHASE`, `CAUSE`, `BADCHAR` as 70_reset_and_hazards.md R156 says. Inputs still to come and responses given
stay: the model's choice (logs 3, 4). Nothing is said of the registers the rule leaves unspecified (log 2). Removing power is that and
then the loss of those registers (60_exceptions.md R154; that the required reset follows is log 8). -/
def Obligations.ResetInputClearsTheControlRegisters : Prop :=
  ∀ (s : State) (rest : List HostInput),
    (s.inbox = .reset :: rest →
      ∃ t, step s = .next t ∧ t.PHASE = .idle ∧ t.CAUSE = 0 ∧ t.BADCHAR = 0 ∧ t.inbox = rest ∧ t.outbox = s.outbox) ∧
    (s.inbox = .removePower :: rest →
      ∃ t, step { s with inbox := .reset :: rest } = .next t ∧ step s = .next t.loseUnspecified ∧
        t.loseUnspecified.PHASE = .idle ∧ t.loseUnspecified.CAUSE = 0 ∧ t.loseUnspecified.BADCHAR = 0 ∧
        t.loseUnspecified.inbox = rest ∧ t.loseUnspecified.outbox = s.outbox)

/-- 10_state.md R35, the rows with a value. -/
def Obligations.ResetStateControlRegisters : Prop :=
  State.reset.PHASE = .idle ∧ State.reset.CAUSE = 0 ∧ State.reset.BADCHAR = 0

/-- Every step answers a next state: decoding is total (30_encoding.md R59), every command completes (45_control.md R128), every
exception is a response (60_exceptions.md R140). -/
def Obligations.StepNeverStops : Prop := ∀ s : State, ∃ t, step s = .next t

/-- Words written out from the table of 30_encoding.md R58, with the neighbours that are refused (R63). -/
def Obligations.WrittenOutWordsDecode : Prop :=
  decode 0x10000000 = .ok .init ∧ decode 0x20000061 = .ok (.absorb 0x61) ∧ decode 0x2000ffff = .ok (.absorb 0xffff) ∧
  decode 0x30000000 = .ok .final ∧ decode 0x4000003f = .ok (.rdhex 63) ∧ decode 0x50000000 = .ok .rdstat ∧
  decode 0x40000040 = .error .indexTooLarge ∧ decode 0x10000001 = .error .argumentSet ∧
  decode 0x20010061 = .error .zeroFieldSet ∧ decode 0x60000000 = .error .unassignedOp

/-- 30_encoding.md R59: "`decode(encode(k)) = k` for every command k". -/
def Obligations.DecodeOfEncodeIsTheCommand : Prop := ∀ i : Instr, decode (encode i) = .ok i

/-- The other direction (30_encoding.md R59: "encoding is the inverse on the legal words"): no bit of a legal word is ignored. -/
def Obligations.EncodeOfDecodeIsTheWord : Prop := ∀ (w : Word) (i : Instr), decode w = .ok i → encode i = w

/-- 30_encoding.md R58: the rows by match and mask are what the decoder reads, with the pattern's operand bits, and the five pairs are
disjoint. -/
def Obligations.DecoderFollowsTheOpcodeTable : Prop :=
  ∀ w : Word,
    (decode w = .ok .init ↔ w &&& 0xFFFFFFFF = 0x10000000) ∧
    (∀ c, decode w = .ok (.absorb c) ↔ w &&& 0xFFFF0000 = 0x20000000 ∧ c = w.extractLsb' 0 16) ∧
    (decode w = .ok .final ↔ w &&& 0xFFFFFFFF = 0x30000000) ∧
    (∀ i, decode w = .ok (.rdhex i) ↔ w &&& 0xFFFFFFC0 = 0x40000000 ∧ i = w.extractLsb' 0 6) ∧
    (decode w = .ok .rdstat ↔ w &&& 0xFFFFFFFF = 0x50000000) ∧
    opcodeTable.countP (fun r => r.selects w) ≤ 1

/-- 30_encoding.md R63: which words are illegal, field by field, and what each of them does when run. -/
def Obligations.IllegalWordsAreTheListedOnes : Prop :=
  ∀ (w : Word) (s : State),
    ((zeroField w ≠ 0 ∨ opField w = 0x0 ∨ 0x6 ≤ (opField w).toNat ∨
      ((opField w = 0x1 ∨ opField w = 0x3 ∨ opField w = 0x5) ∧ argField w ≠ 0) ∨
      (opField w = 0x4 ∧ 64 ≤ (argField w).toNat)) →
        runWord w s = .next { s with outbox := s.outbox ++ [⟨true, 2⟩] }) ∧
    ((∃ why, decode w = .error why) ↔
      (zeroField w ≠ 0 ∨ opField w = 0x0 ∨ 0x6 ≤ (opField w).toNat ∨
        ((opField w = 0x1 ∨ opField w = 0x3 ∨ opField w = 0x5) ∧ argField w ≠ 0) ∨
        (opField w = 0x4 ∧ 64 ≤ (argField w).toNat)))

/-- 30_encoding.md R59: "The number of legal words is 1 + 65536 + 1 + 64 + 1 = 65603". -/
def Obligations.LegalWordsNumber65603 : Prop := Nat.card { w : Word // legalWord w = true } = 65603

/-! ### The commands: where each completes, and what it leaves -/

/-- 41_preprocessor.md R81. INIT completes in every phase; `W` and `x` are not written. -/
def Obligations.InitBeginsAComputation : Prop :=
  decode 0x10000000 = .ok .init ∧
  ∀ s : State, exec .init s = .next { s with
    H := Config.H0, M := Vector.replicate 16 0, LEN := 0, CAUSE := 0, BADCHAR := 0, PHASE := .absorbing,
    outbox := s.outbox ++ [⟨false, 0⟩] }

/-- ABSORB of a valid element that does not fill the block (41_preprocessor.md section 2): the byte is placed by BYTEINS and counted,
and no other register, and no other byte of the block buffer, changes. -/
def Obligations.AbsorbPlacesAndCountsTheByte : Prop :=
  ∀ (s : State) (c : Element), s.PHASE = .absorbing → c.toNat ≤ 255 → s.LEN.toNat ≠ 2 ^ 61 - 1 → s.LEN.toNat % 64 ≠ 63 →
    exec (.absorb c) s = .next { s with
      M := (s.byteIns (c.setWidth 8)).M, LEN := s.LEN + 1, outbox := s.outbox ++ [⟨false, 0⟩] } ∧
    byteAt (s.byteIns (c.setWidth 8)).M (bytePos s.LEN) = byteAt s.M (bytePos s.LEN) ||| c.setWidth 8 ∧
    ∀ q : Fin 64, q ≠ bytePos s.LEN → byteAt (s.byteIns (c.setWidth 8)).M q = byteAt s.M q

/-- ABSORB of the 64th byte of a block (41_preprocessor.md section 2): the block is compressed in the same command and the buffer is
all zero after it. -/
def Obligations.AbsorbCompressesTheFullBlock : Prop :=
  ∀ (s : State) (c : Element), s.PHASE = .absorbing → c.toNat ≤ 255 → s.LEN.toNat ≠ 2 ^ 61 - 1 → s.LEN.toNat % 64 = 63 →
    let block := (s.byteIns (c.setWidth 8)).M
    exec (.absorb c) s = .next { s with
      W := expand block, x := workingAfter s.H (expand block) Config.K, H := compress s.H (expand block) Config.K,
      M := Vector.replicate 16 0, LEN := s.LEN + 1, outbox := s.outbox ++ [⟨false, 0⟩] }

/-- 41_preprocessor.md R83: BYTEINS ORs the byte into position `LEN mod 64`, lane 0 most significant, and writes nothing else; every
other byte of the buffer reads as before; over a zero byte, OR-ing equals storing. -/
def Obligations.ByteInsWritesOneByteOfTheBuffer : Prop :=
  ∀ (s : State) (v : Byte),
    s.byteIns v = { s with M := (s.byteIns v).M } ∧
    (∀ q : Fin 64, byteAt (s.byteIns v).M q = if q.val = s.LEN.toNat % 64 then byteAt s.M q ||| v else byteAt s.M q) ∧
    (byteAt s.M (bytePos s.LEN) = 0 → byteAt (s.byteIns v).M (bytePos s.LEN) = v)

/-- 41_preprocessor.md R88: FINAL, with one PROCBLK when `p <= 55` and two when `p >= 56`. `LEN` is not changed. In any other phase
nothing is written. -/
def Obligations.FinalPadsAndFinishesTheDigest : Prop :=
  decode 0x30000000 = .ok .final ∧
  (∀ s : State, s.PHASE ≠ .absorbing → exec .final s = .next { s with outbox := s.outbox ++ [⟨true, 3⟩] }) ∧
  ∀ s : State, s.PHASE = .absorbing →
    let L : BitVec 64 := BitVec.ofNat 64 (8 * s.LEN.toNat)
    let marked := (s.byteIns 0x80).M
    let second := decide (56 ≤ s.LEN.toNat % 64)
    let H1 := if second then compress s.H (expand marked) Config.K else s.H
    let M1 : Block := if second then Vector.replicate 16 0 else marked
    let last := (M1.set 14 (L.extractLsb' 32 32)).set 15 (L.extractLsb' 0 32)
    exec .final s = .next { s with
      W := expand last, x := workingAfter H1 (expand last) Config.K, H := compress H1 (expand last) Config.K,
      M := Vector.replicate 16 0, PHASE := .done, outbox := s.outbox ++ [⟨false, 0⟩] }

/-- 44_encoder.md R121 with the character codes of R120: RDHEX i in DONE answers the code of hex digit `i mod 8`, counted from the
most significant, of word `i div 8`; nothing else changes, so it may be repeated. In any other phase nothing is answered but the
code 3. -/
def Obligations.RdhexAnswersTheDigit : Prop :=
  (∀ i : BitVec 6, decode (0x40000000 + i.setWidth 32) = .ok (.rdhex i)) ∧
  (∀ (s : State) (i : BitVec 6), s.PHASE ≠ .done → exec (.rdhex i) s = .next { s with outbox := s.outbox ++ [⟨true, 3⟩] }) ∧
  ∀ (s : State) (i : BitVec 6), s.PHASE = .done →
    let v := (s.H.toList.getD (i.toNat / 8) 0).toNat / 16 ^ (7 - i.toNat % 8) % 16
    exec (.rdhex i) s = .next { s with
      outbox := s.outbox ++ [⟨false, BitVec.ofNat 32 (if v < 10 then 0x30 + v else 0x57 + v)⟩] }

/-- 44_encoder.md R124: what RDHEX i answers in DONE is the code of character `i` of `encode(H)`. -/
def Obligations.RdhexReadsTheEncodedDigest : Prop :=
  ∀ (s : State) (i : BitVec 6), s.PHASE = .done →
    exec (.rdhex i) s = .next { s with
      outbox := s.outbox ++ [⟨false, BitVec.ofNat 32 ((encodeDigest s.H).getD i.toNat ' ').toNat⟩] }

/-- 45_control.md R131: RDSTAT answers `(BADCHAR << 16) | (CAUSE << 2) | PHASE` in every phase; no state is written. -/
def Obligations.RdstatAnswersTheStatus : Prop :=
  decode 0x50000000 = .ok .rdstat ∧
  ∀ s : State, exec .rdstat s = .next { s with
    outbox := s.outbox ++ [⟨false, (s.BADCHAR.setWidth 32 <<< 16) ||| (s.CAUSE.setWidth 32 <<< 2) ||| s.PHASE.code.setWidth 32⟩] }

/-- 10_state.md R30: the four fields of STATUS, bits 15:5 always zero. -/
def Obligations.StatusFieldsStandWhereTheSpecSays : Prop :=
  ∀ s : State, s.status.extractLsb' 0 2 = s.PHASE.code ∧ s.status.extractLsb' 2 3 = s.CAUSE ∧
    s.status.extractLsb' 5 11 = 0 ∧ s.status.extractLsb' 16 16 = s.BADCHAR

/-! ### Exceptions -/

/-- 60_exceptions.md R143: ABSORB or FINAL outside ABSORBING, RDHEX outside DONE, whatever the operand: `(1, 3)`, no state written. -/
def Obligations.WrongPhaseRaisesSequenceError : Prop :=
  ∀ s : State,
    (s.PHASE ≠ .absorbing → (∀ c, exec (.absorb c) s = .next { s with outbox := s.outbox ++ [⟨true, 3⟩] }) ∧
      exec .final s = .next { s with outbox := s.outbox ++ [⟨true, 3⟩] }) ∧
    (s.PHASE ≠ .done → ∀ i, exec (.rdhex i) s = .next { s with outbox := s.outbox ++ [⟨true, 3⟩] })

/-- 60_exceptions.md R141: an element above 255 ends the computation, whatever `LEN` is; `H`, `M`, `W`, `x`, `LEN` are left. -/
def Obligations.InvalidByteEndsTheComputation : Prop :=
  ∀ (s : State) (c : Element), s.PHASE = .absorbing → 255 < c.toNat →
    exec (.absorb c) s = .next { s with
      PHASE := .failed, CAUSE := 1, BADCHAR := c, outbox := s.outbox ++ [⟨true, 1⟩] }

/-- 60_exceptions.md R144: the byte that cannot be counted ends the computation; a FINAL sent instead succeeds. -/
def Obligations.LengthOverflowEndsTheComputation : Prop :=
  ∀ (s : State) (c : Element), s.PHASE = .absorbing → s.LEN.toNat = 2 ^ 61 - 1 →
    (c.toNat ≤ 255 → exec (.absorb c) s = .next { s with
      PHASE := .failed, CAUSE := 4, BADCHAR := c, outbox := s.outbox ++ [⟨true, 4⟩] }) ∧
    (∃ t, exec .final s = .next t ∧ t.PHASE = .done ∧ t.outbox = s.outbox ++ [⟨false, 0⟩])

/-- 60_exceptions.md R139, and the legality table of 45_control.md R126: the response to any word carries the first exception of the
priority order whose condition holds, and `err = 0` where none does. -/
def Obligations.FirstExceptionOfThePriorityOrderIsReported : Prop :=
  ∀ (w : Word) (s : State), ∃ t r, runWord w s = .next t ∧ t.outbox = s.outbox ++ [r] ∧
    (if r.err then some r.data else none) =
      match decode w with
      | .error _ => some 2
      | .ok .init => none
      | .ok .rdstat => none
      | .ok .final => if s.PHASE = .absorbing then none else some 3
      | .ok (.rdhex _) => if s.PHASE = .done then none else some 3
      | .ok (.absorb c) =>
        if s.PHASE ≠ .absorbing then some 3
        else if 255 < c.toNat then some 1
        else if s.LEN.toNat = 2 ^ 61 - 1 then some 4
        else none

/-- 60_exceptions.md R137: an exception leaves the state before the command plus exactly the recorded writes of R136. -/
def Obligations.ExceptionsArePrecise : Prop :=
  ∀ (w : Word) (s t : State) (r : Response), runWord w s = .next t → t.outbox = s.outbox ++ [r] → r.err = true →
    (r.data = 2 ∨ r.data = 3 → SameRegisters s t) ∧
    (r.data = 1 ∨ r.data = 4 →
      t.H = s.H ∧ t.x = s.x ∧ t.W = s.W ∧ t.M = s.M ∧ t.LEN = s.LEN ∧ t.PHASE = .failed ∧
      t.CAUSE.toNat = r.data.toNat ∧ decode w = .ok (.absorb t.BADCHAR)) ∧
    (r.data = 1 ∨ r.data = 2 ∨ r.data = 3 ∨ r.data = 4)

/-- 60_exceptions.md R145: in FAILED an illegal word answers `(1, 2)`, and ABSORB, FINAL and RDHEX answer `(1, 3)`; no command but INIT
changes `PHASE`, `CAUSE` or `BADCHAR`, so the first fatal cause stays on record; INIT clears it (R146), and so does a reset. -/
def Obligations.FatalCauseStaysUntilInit : Prop :=
  ∀ (w : Word) (s t : State), s.PHASE = .failed → runWord w s = .next t →
    (∀ why, decode w = .error why → t = { s with outbox := s.outbox ++ [⟨true, 2⟩] }) ∧
    (∀ i, decode w = .ok i → i ≠ .init → i ≠ .rdstat → t = { s with outbox := s.outbox ++ [⟨true, 3⟩] }) ∧
    (decode w ≠ .ok .init → SameRegisters s t) ∧
    (decode w = .ok .init → t.PHASE = .absorbing ∧ t.CAUSE = 0 ∧ t.BADCHAR = 0) ∧
    s.applyReset.CAUSE = 0 ∧ s.applyReset.BADCHAR = 0

/-- 30_encoding.md R66: every accepted word, legal or not, gives exactly one response, with the data of its case. The inputs still to
come are not touched. -/
def Obligations.EveryCommandGivesOneResponse : Prop :=
  ∀ (w : Word) (s : State), ∃ t r, runWord w s = .next t ∧ t.outbox = s.outbox ++ [r] ∧ t.inbox = s.inbox ∧
    (r.err = true → 1 ≤ r.data.toNat ∧ r.data.toNat ≤ 4) ∧
    (r.err = false →
      (decode w = .ok .init ∨ (∃ c, decode w = .ok (.absorb c)) ∨ decode w = .ok .final → r.data = 0) ∧
      (decode w = .ok .rdstat → r.data = s.status) ∧
      (∀ i, decode w = .ok (.rdhex i) → r.data = (s.hexnib i).setWidth 32 ∧
        ((0x30 ≤ r.data.toNat ∧ r.data.toNat ≤ 0x39) ∨ (0x61 ≤ r.data.toNat ∧ r.data.toNat ≤ 0x66))))

/-- 45_control.md R127: the only changes of `PHASE`, as an equation for the phase after any step. The removal of power is the same as
reset (60_exceptions.md R154; that the required reset follows is DEDUCED, log 8). -/
def Obligations.PhaseChangesOnlyOnTheListedEvents : Prop :=
  ∀ s t : State, step s = .next t →
    t.PHASE = match s.inbox with
      | [] => s.PHASE
      | .reset :: _ => .idle
      | .removePower :: _ => .idle
      | .command w :: _ =>
        match decode w with
        | .ok .init => .absorbing
        | .ok .final => if s.PHASE = .absorbing then .done else s.PHASE
        | .ok (.absorb c) =>
          if s.PHASE = .absorbing ∧ (255 < c.toNat ∨ s.LEN.toNat = 2 ^ 61 - 1) then .failed else s.PHASE
        | .ok (.rdhex _) => s.PHASE
        | .ok .rdstat => s.PHASE
        | .error _ => s.PHASE

/-- 10_state.md R21: `H` is written by INIT and by the PROCBLKs of ABSORB and FINAL, by no other command: any command but INIT leaves
`H` folded with exactly the blocks it compresses. `blocksOfCommand` is the model's account of its PROCBLKs. -/
def Obligations.ChainingStateFoldsTheCompressedBlocks : Prop :=
  ∀ (i : Instr) (s t : State), i ≠ .init → exec i s = .next t → t.H = (blocksOfCommand i s).foldl foldBlock s.H

/-! ### The micro-operations and the word functions -/

/-- The primitives of 00_scope.md R11: rotation bit by bit, the logical shift as a quotient, addition mod 2^32. -/
def Obligations.WordPrimitivesAreAsDefined : Prop :=
  ∀ (u v : Word) (n : Nat), 0 < n → n < 32 →
    (∀ i, i < 32 → (rotr u n).getLsbD i = u.getLsbD ((i + n) % 32)) ∧
    (shr u n).toNat = u.toNat / 2 ^ n ∧
    (add32 u v).toNat = (u.toNat + v.toNat) % 2 ^ 32

/-- 42_scheduler.md R97, R98 and 43_compression.md R104, R105: the four sigmas by BitVec's own rotation and shift, with the spec's
corner cases. -/
def Obligations.SigmaFunctionsAreAsDefined : Prop :=
  (∀ u : Word, smallSigma0 u = u.rotateRight 7 ^^^ u.rotateRight 18 ^^^ (u >>> 3)) ∧
  (∀ u : Word, smallSigma1 u = u.rotateRight 17 ^^^ u.rotateRight 19 ^^^ (u >>> 10)) ∧
  (∀ u : Word, bigSigma0 u = u.rotateRight 2 ^^^ u.rotateRight 13 ^^^ u.rotateRight 22) ∧
  (∀ u : Word, bigSigma1 u = u.rotateRight 6 ^^^ u.rotateRight 11 ^^^ u.rotateRight 25) ∧
  smallSigma0 0 = 0 ∧ smallSigma0 0xffffffff = 0x1fffffff ∧ smallSigma0 1 = 0x02004000 ∧ smallSigma0 0x80000000 = 0x11002000 ∧
  smallSigma1 0 = 0 ∧ smallSigma1 0xffffffff = 0x003fffff ∧ smallSigma1 1 = 0x0000a000 ∧ smallSigma1 0x80000000 = 0x00205000 ∧
  bigSigma0 0 = 0 ∧ bigSigma0 0xffffffff = 0xffffffff ∧ bigSigma0 1 = 0x40080400 ∧ bigSigma0 0x80000000 = 0x20040200 ∧
  bigSigma1 0 = 0 ∧ bigSigma1 0xffffffff = 0xffffffff ∧ bigSigma1 1 = 0x04200080 ∧ bigSigma1 0x80000000 = 0x02100040

/-- 43_compression.md R106, R107: Ch chooses and Maj takes the majority, bit by bit, with the corner cases of the rules. -/
def Obligations.ChChoosesAndMajTakesTheMajority : Prop :=
  ∀ u v w : Word,
    ch u v w = (u &&& v) ^^^ (~~~u &&& w) ∧ maj u v w = (u &&& v) ^^^ (u &&& w) ^^^ (v &&& w) ∧
    (∀ i, i < 32 → (ch u v w).getLsbD i = if u.getLsbD i then v.getLsbD i else w.getLsbD i) ∧
    (∀ i, i < 32 → (maj u v w).getLsbD i =
      decide (2 ≤ (u.getLsbD i).toNat + (v.getLsbD i).toNat + (w.getLsbD i).toNat)) ∧
    ch 0xffffffff v w = v ∧ ch 0 v w = w ∧ ch u v v = v ∧
    maj u u w = u ∧ maj 0 v w = v &&& w ∧ maj 0xffffffff v w = v ||| w ∧
    maj u v w = maj v u w ∧ maj u v w = maj u w v

/-- 42_scheduler.md R99: the schedule of a block, index by index. -/
def Obligations.ExpandFollowsTheRecurrence : Prop :=
  ∀ (block : Block) (t : Nat),
    (∀ h : t < 16, (expand block)[t] = block[t]) ∧
    (∀ (_ : 16 ≤ t) (h : t < 64), (expand block)[t] =
      smallSigma1 (expand block)[t - 2] + (expand block)[t - 7] + smallSigma0 (expand block)[t - 15] + (expand block)[t - 16])

/-- 42_scheduler.md R101: after SCHED, `W = expand(M)`, whatever `W` held; nothing else changes. -/
def Obligations.SchedFillsTheSchedule : Prop := ∀ s : State, s.sched = { s with W := expand s.M }

/-- 43_compression.md R108: the round as a pure function, all right-hand sides from before the round, each sum reduced once mod 2^32;
and ROUND(t), which applies it with `K[t]` and `W[t]` and writes nothing else. -/
def Obligations.RoundFollowsTheRule : Prop :=
  (∀ (v : Words8) (k w : Word),
    let T1 := (v[7].toNat + (bigSigma1 v[4]).toNat + (ch v[4] v[5] v[6]).toNat + k.toNat + w.toNat) % 2 ^ 32
    let T2 := ((bigSigma0 v[0]).toNat + (maj v[0] v[1] v[2]).toNat) % 2 ^ 32
    Machine.round v k w =
      #v[BitVec.ofNat 32 (T1 + T2), v[0], v[1], v[2], BitVec.ofNat 32 (v[3].toNat + T1), v[4], v[5], v[6]]) ∧
  ∀ (s : State) (t : Fin 64), s.round t = { s with x := Machine.round s.x Config.K[t] s.W[t] }

/-- 43_compression.md R115: "`round` is invertible given k and w (so no information in x is lost by a round)". -/
def Obligations.RoundLosesNoInformation : Prop := ∀ k w : Word, Function.Injective (fun v : Words8 => Machine.round v k w)

/-- 43_compression.md R111: FOLD adds word by word, with no carry between words; nothing else changes. -/
def Obligations.FoldAddsTheWorkingRegisters : Prop :=
  ∀ s : State, s.fold = { s with H := s.fold.H } ∧
    ∀ i : Fin 8, s.fold.H[i].toNat = (s.H[i].toNat + s.x[i].toNat) % 2 ^ 32

/-- 43_compression.md R109: what PROCBLK leaves. -/
def Obligations.ProcblkCompressesTheBuffer : Prop :=
  ∀ s : State, s.procblk = { s with
    W := expand s.M, x := workingAfter s.H (expand s.M) Config.K, H := compress s.H (expand s.M) Config.K,
    M := Vector.replicate 16 0 }

/-! ### The constant table -/

/-- 40_constant_table.md R74, R75: the primes are the first 64 in ascending order, `H0[i] = isqrt(p(i) * 2^64) mod 2^32` and
`K[i] = icbrt(p(i) * 2^96) mod 2^32`. -/
def Obligations.ConstantsAreTheFractionsOfTheRoots : Prop :=
  (Config.primes = (List.range 312).filter (fun n => decide n.Prime) ∧ Config.primes.length = 64) ∧
  (∀ i : Fin 8, ∃ r : Nat, r ^ 2 ≤ Config.primes.getD i.val 0 * 2 ^ 64 ∧ Config.primes.getD i.val 0 * 2 ^ 64 < (r + 1) ^ 2 ∧
    Config.H0[i].toNat = r % 2 ^ 32) ∧
  (∀ i : Fin 64, ∃ r : Nat, r ^ 3 ≤ Config.primes.getD i.val 0 * 2 ^ 96 ∧ Config.primes.getD i.val 0 * 2 ^ 96 < (r + 1) ^ 3 ∧
    Config.K[i].toNat = r % 2 ^ 32)

/-! ### Padding, encoding of the digest, and the assembler -/

/-- 41_preprocessor.md R80, for a message within the bound of R94: the padded bytes are the message, the terminator, the least number
of zero bytes that leaves room for the length field in a whole block, and eight bytes that, most significant first, give exactly
`8 * n`; the blocks hold these bytes in order and nothing else; the last two words of the last block give `8 * n`. Above the bound `pad` has no result; the name of that is the model's
(log 14). -/
def Obligations.PaddingFillsWholeBlocks : Prop :=
  ∀ B : List Byte,
    (B.length ≤ 2 ^ 61 - 1 → ∃ P field blocks last, paddedBytes B = .ok P ∧ pad B = .ok blocks ∧ blocks.getLast? = some last ∧
      P = B ++ [0x80] ++ List.replicate (zeroCount B.length) 0 ++ field ∧
      field.length = 8 ∧ field.foldl (fun v b => 256 * v + b.toNat) 0 = 8 * B.length ∧
      P.length % 64 = 0 ∧ 64 * blocks.length = P.length ∧
      (∀ (j : Nat) (h : j < blocks.length) (q : Fin 64), byteAt blocks[j] q = P.getD (64 * j + q.val) 0) ∧
      (B.length + 1 + zeroCount B.length) % 64 = 56 ∧ (∀ z, z < zeroCount B.length → (B.length + 1 + z) % 64 ≠ 56) ∧
      last[14].toNat * 2 ^ 32 + last[15].toNat = 8 * B.length) ∧
    (2 ^ 61 - 1 < B.length → paddedBytes B = .error .messageTooLong ∧ pad B = .error .messageTooLong ∧
      Machine.hash B = .error .messageTooLong)

/-- 41_preprocessor.md R91: the number of blocks of a message within the bound of R94, and R90: the block of the empty message. -/
def Obligations.PadGivesTheStatedNumberOfBlocks : Prop :=
  (∀ B : List Byte, B.length ≤ 2 ^ 61 - 1 → ∃ blocks, pad B = .ok blocks ∧ blocks.length = (B.length + 8) / 64 + 1 ∧
    (B.length % 64 ≤ 55 → blocks.length = B.length / 64 + 1) ∧ (56 ≤ B.length % 64 → blocks.length = B.length / 64 + 2)) ∧
  pad [] = .ok [#v[0x80000000, 0, 0, 0, 0, 0, 0, 0, 0, 0, 0, 0, 0, 0, 0, 0]]

/-- 41_preprocessor.md R89: the length field is exactly eight times the length, its low three bits are zero, and below 2^29 bytes its
high word is zero. -/
def Obligations.LengthFieldIsExact : Prop :=
  ∀ LEN : BitVec 61, (bitLength LEN).toNat = 8 * LEN.toNat ∧ (bitLength LEN).extractLsb' 0 3 = 0 ∧
    (LEN.toNat < 2 ^ 29 → lengthHigh (bitLength LEN) = 0) ∧
    (lengthHigh (bitLength LEN)).toNat * 2 ^ 32 + (lengthLow (bitLength LEN)).toNat = 8 * LEN.toNat

/-- 44_encoder.md R122: 64 characters, all in `0-9a-f`, and two different states give different strings. -/
def Obligations.EncodedDigestIsInjective : Prop :=
  (∀ S : Words8, (encodeDigest S).length = 64 ∧ ∀ c ∈ encodeDigest S, ('0' ≤ c ∧ c ≤ '9') ∨ ('a' ≤ c ∧ c ≤ 'f')) ∧
  Function.Injective encodeDigest ∧
  encodeDigest (Vector.replicate 8 0) = List.replicate 64 '0' ∧
  encodeDigest (Vector.replicate 8 0xffffffff) = List.replicate 64 'f'

/-- 30_encoding.md R71: `HASH "s"` expands to `INIT`, `ABSORBS "s"`, `FINAL`, `DIGEST` (ABSORBS by R69); a code that ABSORB cannot carry
is an assembly error (R68's range of ABSORB's operand, applied to a character of a string by the model's choice, log 13). -/
def Obligations.HashLineExpands : Prop :=
  ∀ codes : List Nat,
    ((∀ c ∈ codes, c ≤ 65535) → ∃ absorbs digest,
      (AsmLine.absorbs codes).words = some absorbs ∧ AsmLine.digest.words = some digest ∧
      (AsmLine.hash codes).words = some (encode .init :: absorbs ++ encode .final :: digest)) ∧
    ((∃ c ∈ codes, 65535 < c) → (AsmLine.hash codes).words = none)

/-! ### Invariants -/

/-- The state after reset meets the invariant; nothing rests on the values log 1 chose. -/
def Obligations.ResetMeetsTheInvariant : Prop := Inv State.reset

/-- 10_state.md R28, R29, R39: every step keeps the invariant, from every state that has it. -/
def Obligations.StepKeepsTheInvariant : Prop := ∀ s t : State, Inv s → step s = .next t → Inv t

/-- 10_state.md R39, ABSORBING: INIT begins with nothing taken in, and each valid ABSORB takes in one byte more. -/
def Obligations.AbsorbingHoldsTheMessageSoFar : Prop :=
  (∀ s : State, ∃ t, exec .init s = .next t ∧ Absorbed t []) ∧
  (∀ (s : State) (B : List Byte) (c : Element), Absorbed s B → c.toNat ≤ 255 → B.length < 2 ^ 61 - 1 →
    ∃ t, exec (.absorb c) s = .next t ∧ Absorbed t (B ++ [c.setWidth 8]))

/-- 10_state.md R39, DONE: FINAL leaves the hash of the bytes taken in. -/
def Obligations.FinalLeavesTheHash : Prop :=
  ∀ (s : State) (B : List Byte), Absorbed s B → ∃ t, exec .final s = .next t ∧ Digested t B

/-! ### The whole-message law -/

/-- 45_control.md R133, a valid message: started in any state, every response has `err = 0`, `H` is the hash after FINAL, and the
characters read are `computeDigestHex(C)`. -/
def Obligations.HostSequenceComputesTheDigest : Prop :=
  ∀ (s : State) (C : List Element) (rest : List HostInput), (∀ c ∈ C, c.toNat ≤ 255) → C.length ≤ 2 ^ 61 - 1 →
    s.inbox = sendCommands (hashCommands C) ++ rest →
    ∃ (t u : State) (chars : List Char),
      Reaches (C.length + 2) s t ∧ t.PHASE = .done ∧ Machine.hash (C.map (BitVec.setWidth 8)) = .ok t.H ∧
      Reaches 64 t u ∧ SameRegisters t u ∧ u.inbox = rest ∧
      computeDigestHex C = .ok chars ∧
      u.outbox = s.outbox ++ List.replicate (C.length + 2) ⟨false, 0⟩ ++
        chars.map (fun ch => ⟨false, BitVec.ofNat 32 ch.toNat⟩)

/-- 45_control.md R133, an element above 255 at index k: the responses before it have `err = 0`, its response is `(1, 1)`, the phase
becomes FAILED with the element on record, and every later command of the sequence answers `(1, 3)`. -/
def Obligations.HostSequenceRejectsAnInvalidElement : Prop :=
  ∀ (s : State) (A D : List Element) (c : Element) (rest : List HostInput), (∀ a ∈ A, a.toNat ≤ 255) → 255 < c.toNat →
    (A ++ c :: D).length ≤ 2 ^ 61 - 1 → s.inbox = sendCommands (hashCommands (A ++ c :: D)) ++ rest →
    computeDigestHex (A ++ c :: D) = .error .invalidByte ∧
    ∃ t, Reaches ((A ++ c :: D).length + 66) s t ∧ t.PHASE = .failed ∧ t.CAUSE = 1 ∧ t.BADCHAR = c ∧ t.inbox = rest ∧
      t.outbox = s.outbox ++ List.replicate (A.length + 1) ⟨false, 0⟩ ++ [⟨true, 1⟩] ++
        List.replicate (D.length + 65) ⟨true, 3⟩

/-- 41_preprocessor.md R92: the sequence performs exactly N PROCBLKs, on the blocks of `pad` in order. This is in terms of
`blocksOfRun`, which stands beside the machine (DEDUCED, log 21); what ties those blocks to what the machine does is
`ChainingStateFoldsTheCompressedBlocks` (O30): their fold is what each command leaves in `H`. -/
def Obligations.StreamingCommandsCompressThePaddedBlocks : Prop :=
  ∀ (s : State) (C : List Element) (rest : List HostInput), (∀ c ∈ C, c.toNat ≤ 255) → C.length ≤ 2 ^ 61 - 1 →
    s.inbox = sendCommands (messageCommands C) ++ rest →
    pad (C.map (BitVec.setWidth 8)) = .ok (blocksOfRun (C.length + 2) s) ∧
    (blocksOfRun (C.length + 2) s).length = (C.length + 8) / 64 + 1

/-- 10_state.md R36, R37: what a host cannot tell apart it can never tell apart: registers that no command may read yet do not
matter. In particular the values log 1 chose for reset do not. -/
def Obligations.StepKeepsStatesIndistinguishable : Prop :=
  ∀ s t : State, SameToHost s t → ∃ s' t', step s = .next s' ∧ step t = .next t' ∧ SameToHost s' t'

/-- 45_control.md R134: from an INIT on, the responses do not depend on the phase, the registers or the computations before it. -/
def Obligations.NothingBeforeInitReachesTheResponses : Prop :=
  ∀ (s t : State) (rest : List HostInput) (k : Nat), s.inbox = .command (encode .init) :: rest → t.inbox = s.inbox →
    ∃ s' t' new, Reaches k s s' ∧ Reaches k t t' ∧ s'.outbox = s.outbox ++ new ∧ t'.outbox = t.outbox ++ new

/-! ### The pins -/

/-- 70_reset_and_hazards.md R159: an edge before the first reset has no meaning, and nothing is said of the outputs there. Removing
power leads back there, with the effect of reset on the core (60_exceptions.md R154; how the two rules meet is DEDUCED, log 8; what
stands in `outbox` is the model's record, logs 4, 19). -/
def Obligations.PinsHaveNoMeaningBeforeReset : Prop :=
  (∀ (p : Pins.PinState) (a : Pins.PinsIn), p.ctl = .unreset → a.rst = false →
    Pins.edge p a = .refused .beforeFirstReset ∧ ∀ rst, p.outputs rst = none) ∧
  ∀ p : Pins.PinState, ∃ q, Pins.event p .removePower = .next q ∧ q.ctl = .unreset ∧ q.core.PHASE = .idle ∧ q.core.CAUSE = 0 ∧
    q.core.BADCHAR = 0 ∧ q.core.outbox = if p.ctl.inFlight then p.core.outbox.dropLast else p.core.outbox

/-- 70_reset_and_hazards.md R157, R171: reset wins at any edge; a pending response is dropped, the command is abandoned, and while
`rst = 1` nothing is accepted or transferred. What stands in `outbox` is the model's record (logs 4, 19). -/
def Obligations.PinResetOverridesEverything : Prop :=
  ∀ (p : Pins.PinState) (a : Pins.PinsIn), a.rst = true →
    (∃ q, Pins.edge p a = .next q ∧ q.core.PHASE = .idle ∧ q.core.CAUSE = 0 ∧ q.core.BADCHAR = 0 ∧ q.ctl.inFlight = false ∧
      q.ctl ≠ .unreset ∧ q.core.outbox = if p.ctl.inFlight then p.core.outbox.dropLast else p.core.outbox) ∧
    p.accepts a = false ∧ p.transfers a = false ∧
    (∀ o ∈ p.outputs a.rst, o.cmdReady = false ∧ o.rspValid = false)

/-- 70_reset_and_hazards.md R167 to R169: a command is accepted exactly when `cmd_valid` meets `cmd_ready` with `rst = 0`; it is then
run at once, at the accepting edge (the model's choice, log 9), as one transition of the transaction-level machine, and while it is in
flight `cmd_ready = 0`. An offered response stays as it is until its transfer: that `rsp_err` and `rsp_data` are stable while
`rsp_valid = 1` is R168, and that `rsp_valid` itself stays 1 is the model's inference from it (DEDUCED, log 23). -/
def Obligations.PinHandshakeTakesOneCommandAtATime : Prop :=
  ∀ (p : Pins.PinState) (a : Pins.PinsIn), Pins.PinsInv p →
    (p.accepts a = true ↔ a.rst = false ∧ a.cmdValid = true ∧ ∃ o, p.outputs a.rst = some o ∧ o.cmdReady = true) ∧
    (p.ctl.inFlight = true → ∀ rst, ∀ o ∈ p.outputs rst, o.cmdReady = false) ∧
    (p.hostKeepsOffer a = true → p.accepts a = true →
      ∃ q, Pins.edge p a = .next q ∧ runWord a.cmd p.core = .next q.core ∧ q.ctl.inFlight = true) ∧
    (p.hostKeepsOffer a = true → p.ctl = .responding → a.rst = false → a.rspReady = false →
      ∃ q, Pins.edge p a = .next q ∧ q.outputs false = p.outputs false)

/-- Every edge after a reset keeps the pin layer's invariant, and a reset edge sets it up from any state. That a command in flight has
its response at hand, also while the core is busy, is the model's choice: its effect lands at the accepting edge (log 9). -/
def Obligations.EdgeKeepsThePinInvariant : Prop :=
  ∀ (p q : Pins.PinState) (a : Pins.PinsIn), Pins.edge p a = .next q → (Pins.PinsInv p ∨ a.rst = true) → Pins.PinsInv q

/-- 70_reset_and_hazards.md R168, R169: with no reset, the clocked core is the transaction-level machine: the words accepted, taken
as one run of steps, give its state (that an effect lands at the accepting edge is the model's choice, log 9), and the responses
transferred, with the one still pending, are the responses of that run, in order. -/
def Obligations.PinsRefineTheTransactions : Prop :=
  ∀ (p q : Pins.PinState) (ins : List Pins.PinsIn) (given : List Response), Pins.run p ins = .next q →
    (∀ a ∈ ins, a.rst = false) → p.core.outbox = given ++ Pins.pendingResponses p →
    Reaches (Pins.acceptedWords p ins).length
      { p.core with inbox := (Pins.acceptedWords p ins).map .command ++ p.core.inbox } q.core ∧
    q.core.outbox = given ++ Pins.transferredResponses p ins ++ Pins.pendingResponses q

/-- 70_reset_and_hazards.md R174: every accepted command is answered after finitely many edges while `rst` stays 0, and after its
response is taken the core is ready again after finitely many; and R169: after a reset edge, from any state, `rsp_valid = 0` and
`cmd_ready` rises within finitely many. -/
def Obligations.EveryAcceptedCommandIsAnswered : Prop :=
  ∀ (p : Pins.PinState) (a : Pins.PinsIn),
    (a.rst = true → ∃ q n, Pins.edge p a = .next q ∧ (∀ o ∈ q.outputs false, o.rspValid = false) ∧
      ∀ ins, ins.length = n → Pins.HostBehaves q ins →
        ∃ r k, k ≤ n ∧ Pins.run q (ins.take k) = .next r ∧ ∃ o, r.outputs false = some o ∧ o.cmdReady = true ∧ o.rspValid = false) ∧
    (p.hostKeepsOffer a = true → p.accepts a = true → ∃ q n, Pins.edge p a = .next q ∧
      ∀ ins, ins.length = n → Pins.HostBehaves q ins → ∃ r, Pins.run q ins = .next r ∧ r.ctl = .responding) ∧
    (p.hostKeepsOffer a = true → p.transfers a = true → ∃ q n, Pins.edge p a = .next q ∧
      ∀ ins, ins.length = n → Pins.HostBehaves q ins →
        ∃ r k, k ≤ n ∧ Pins.run q (ins.take k) = .next r ∧ r.ctl = .ready)
end

