-- ==== Sys2Proof/Laws/Decode.lean ====
section
/-! SUPPORT. The three fields of a command word, read back from a word the encoder builds (30_encoding.md R56). -/

namespace Sys2Proof

@[simp] theorem opField_commandWord (op : BitVec 4) (arg : BitVec 16) : opField (commandWord op arg) = op := by
  ext i hi
  simp only [opField, commandWord, BitVec.getElem_extractLsb', BitVec.getLsbD_append]
  rw [if_neg (by omega), if_neg (by omega)]
  simp [show 28 + i - 16 - 12 = i by omega, BitVec.getLsbD_eq_getElem hi]

@[simp] theorem zeroField_commandWord (op : BitVec 4) (arg : BitVec 16) : zeroField (commandWord op arg) = 0 := by
  ext i hi
  simp only [zeroField, commandWord, BitVec.getElem_extractLsb', BitVec.getLsbD_append]
  rw [if_neg (by omega), if_pos (by omega)]
  simp

@[simp] theorem argField_commandWord (op : BitVec 4) (arg : BitVec 16) : argField (commandWord op arg) = arg := by
  ext i hi
  simp only [argField, commandWord, BitVec.getElem_extractLsb', BitVec.getLsbD_append]
  rw [if_pos (by omega)]
  simp [BitVec.getLsbD_eq_getElem hi]

end Sys2Proof
end

