-- ==== Sys2Proof/Laws/Digest.lean ====
section
/-! SUPPORT. The functions over a whole message where they are defined, and that they have no result above the bound
(41_preprocessor.md R94). -/

namespace Sys2Proof.Machine

/-- Within the bound the padded bytes are those of 41_preprocessor.md R80. -/
theorem paddedBytes_of_bounded (B : List Byte) (h : B.length ≤ Config.maxMsgBytes) :
    paddedBytes B =
      .ok (B ++ [0x80] ++ List.replicate (zeroCount B.length) 0 ++ lengthBytes (BitVec.ofNat 64 (8 * B.length))) := by
  simp only [paddedBytes, if_pos h]

/-- Above the bound there are none. -/
theorem paddedBytes_of_too_long (B : List Byte) (h : Config.maxMsgBytes < B.length) : paddedBytes B = .error .messageTooLong := by
  simp only [paddedBytes, if_neg (Nat.not_le.mpr h)]

/-- `pad` has a result exactly with `paddedBytes`, and it is the complete blocks of it. -/
theorem pad_eq_ok_iff (B : List Byte) (blocks : List Block) :
    pad B = .ok blocks ↔ ∃ P, paddedBytes B = .ok P ∧ completeBlocks P = blocks := by
  unfold pad
  cases paddedBytes B <;> simp [Except.map]

/-- `hash` has a result exactly with `pad`, and it is the fold of the blocks. -/
theorem hash_eq_ok_iff (B : List Byte) (S : Words8) :
    hash B = .ok S ↔ ∃ blocks, pad B = .ok blocks ∧ blocks.foldl foldBlock Config.H0 = S := by
  unfold hash
  cases pad B <;> simp [Except.map]

/-- A valid sequence gives its bytes. -/
theorem messageBytes_of_valid (C : List Element) (h : C.all validElement = true) : messageBytes C = .ok (C.map elementByte) := by
  simp only [messageBytes, if_pos h]

/-- A sequence with an invalid element gives none. -/
theorem messageBytes_of_invalid (C : List Element) (h : C.all validElement = false) : messageBytes C = .error .invalidByte := by
  simp [messageBytes, h]

end Sys2Proof.Machine
end

