-- ==== Sys2Proof/Laws/State.lean ====
section
/-! SUPPORT. One lemma per field per named update of the state, so that no proof unfolds a record update; the loop of rounds and the
exception by their frames. -/

namespace Sys2Proof.Machine

/-! ### `respond` -/

@[simp] theorem State.respond_H (s : State) (r : Response) : (s.respond r).H = s.H := rfl
@[simp] theorem State.respond_x (s : State) (r : Response) : (s.respond r).x = s.x := rfl
@[simp] theorem State.respond_W (s : State) (r : Response) : (s.respond r).W = s.W := rfl
@[simp] theorem State.respond_M (s : State) (r : Response) : (s.respond r).M = s.M := rfl
@[simp] theorem State.respond_LEN (s : State) (r : Response) : (s.respond r).LEN = s.LEN := rfl
@[simp] theorem State.respond_PHASE (s : State) (r : Response) : (s.respond r).PHASE = s.PHASE := rfl
@[simp] theorem State.respond_CAUSE (s : State) (r : Response) : (s.respond r).CAUSE = s.CAUSE := rfl
@[simp] theorem State.respond_BADCHAR (s : State) (r : Response) : (s.respond r).BADCHAR = s.BADCHAR := rfl
@[simp] theorem State.respond_inbox (s : State) (r : Response) : (s.respond r).inbox = s.inbox := rfl
@[simp] theorem State.respond_outbox (s : State) (r : Response) : (s.respond r).outbox = s.outbox ++ [r] := rfl
@[simp] theorem State.respond_resets (s : State) (r : Response) : (s.respond r).resets = s.resets := rfl

/-! ### `recordFatal` -/

@[simp] theorem State.recordFatal_H (s : State) (k : BitVec 3) (c : Element) : (s.recordFatal k c).H = s.H := rfl
@[simp] theorem State.recordFatal_x (s : State) (k : BitVec 3) (c : Element) : (s.recordFatal k c).x = s.x := rfl
@[simp] theorem State.recordFatal_W (s : State) (k : BitVec 3) (c : Element) : (s.recordFatal k c).W = s.W := rfl
@[simp] theorem State.recordFatal_M (s : State) (k : BitVec 3) (c : Element) : (s.recordFatal k c).M = s.M := rfl
@[simp] theorem State.recordFatal_LEN (s : State) (k : BitVec 3) (c : Element) : (s.recordFatal k c).LEN = s.LEN := rfl
@[simp] theorem State.recordFatal_PHASE (s : State) (k : BitVec 3) (c : Element) : (s.recordFatal k c).PHASE = .failed := rfl
@[simp] theorem State.recordFatal_CAUSE (s : State) (k : BitVec 3) (c : Element) : (s.recordFatal k c).CAUSE = k := rfl
@[simp] theorem State.recordFatal_BADCHAR (s : State) (k : BitVec 3) (c : Element) : (s.recordFatal k c).BADCHAR = c := rfl
@[simp] theorem State.recordFatal_inbox (s : State) (k : BitVec 3) (c : Element) : (s.recordFatal k c).inbox = s.inbox := rfl
@[simp] theorem State.recordFatal_outbox (s : State) (k : BitVec 3) (c : Element) : (s.recordFatal k c).outbox = s.outbox := rfl
@[simp] theorem State.recordFatal_resets (s : State) (k : BitVec 3) (c : Element) : (s.recordFatal k c).resets = s.resets := rfl

/-! ### `clearTrapRecord` -/

@[simp] theorem State.clearTrapRecord_H (s : State) : (s.clearTrapRecord).H = s.H := rfl
@[simp] theorem State.clearTrapRecord_x (s : State) : (s.clearTrapRecord).x = s.x := rfl
@[simp] theorem State.clearTrapRecord_W (s : State) : (s.clearTrapRecord).W = s.W := rfl
@[simp] theorem State.clearTrapRecord_M (s : State) : (s.clearTrapRecord).M = s.M := rfl
@[simp] theorem State.clearTrapRecord_LEN (s : State) : (s.clearTrapRecord).LEN = s.LEN := rfl
@[simp] theorem State.clearTrapRecord_PHASE (s : State) : (s.clearTrapRecord).PHASE = s.PHASE := rfl
@[simp] theorem State.clearTrapRecord_CAUSE (s : State) : (s.clearTrapRecord).CAUSE = 0 := rfl
@[simp] theorem State.clearTrapRecord_BADCHAR (s : State) : (s.clearTrapRecord).BADCHAR = 0 := rfl
@[simp] theorem State.clearTrapRecord_inbox (s : State) : (s.clearTrapRecord).inbox = s.inbox := rfl
@[simp] theorem State.clearTrapRecord_outbox (s : State) : (s.clearTrapRecord).outbox = s.outbox := rfl
@[simp] theorem State.clearTrapRecord_resets (s : State) : (s.clearTrapRecord).resets = s.resets := rfl

/-! ### `loseUnspecified` -/

@[simp] theorem State.loseUnspecified_H (s : State) : (s.loseUnspecified).H = Config.unspecifiedH s.resets := rfl
@[simp] theorem State.loseUnspecified_x (s : State) : (s.loseUnspecified).x = Config.unspecifiedX s.resets := rfl
@[simp] theorem State.loseUnspecified_W (s : State) : (s.loseUnspecified).W = Config.unspecifiedW s.resets := rfl
@[simp] theorem State.loseUnspecified_M (s : State) : (s.loseUnspecified).M = Config.unspecifiedM s.resets := rfl
@[simp] theorem State.loseUnspecified_LEN (s : State) : (s.loseUnspecified).LEN = Config.unspecifiedLEN s.resets := rfl
@[simp] theorem State.loseUnspecified_PHASE (s : State) : (s.loseUnspecified).PHASE = s.PHASE := rfl
@[simp] theorem State.loseUnspecified_CAUSE (s : State) : (s.loseUnspecified).CAUSE = s.CAUSE := rfl
@[simp] theorem State.loseUnspecified_BADCHAR (s : State) : (s.loseUnspecified).BADCHAR = s.BADCHAR := rfl
@[simp] theorem State.loseUnspecified_inbox (s : State) : (s.loseUnspecified).inbox = s.inbox := rfl
@[simp] theorem State.loseUnspecified_outbox (s : State) : (s.loseUnspecified).outbox = s.outbox := rfl
@[simp] theorem State.loseUnspecified_resets (s : State) : (s.loseUnspecified).resets = s.resets + 1 := rfl

/-! ### `applyReset` -/

@[simp] theorem State.applyReset_H (s : State) : (s.applyReset).H = Config.unspecifiedH s.resets := rfl
@[simp] theorem State.applyReset_x (s : State) : (s.applyReset).x = Config.unspecifiedX s.resets := rfl
@[simp] theorem State.applyReset_W (s : State) : (s.applyReset).W = Config.unspecifiedW s.resets := rfl
@[simp] theorem State.applyReset_M (s : State) : (s.applyReset).M = Config.unspecifiedM s.resets := rfl
@[simp] theorem State.applyReset_LEN (s : State) : (s.applyReset).LEN = Config.unspecifiedLEN s.resets := rfl
@[simp] theorem State.applyReset_PHASE (s : State) : (s.applyReset).PHASE = .idle := rfl
@[simp] theorem State.applyReset_CAUSE (s : State) : (s.applyReset).CAUSE = 0 := rfl
@[simp] theorem State.applyReset_BADCHAR (s : State) : (s.applyReset).BADCHAR = 0 := rfl
@[simp] theorem State.applyReset_inbox (s : State) : (s.applyReset).inbox = s.inbox := rfl
@[simp] theorem State.applyReset_outbox (s : State) : (s.applyReset).outbox = s.outbox := rfl
@[simp] theorem State.applyReset_resets (s : State) : (s.applyReset).resets = s.resets + 1 := rfl

/-! ### `losePower` -/

@[simp] theorem State.losePower_H (s : State) : (s.losePower).H = Config.unspecifiedH (s.resets + 1) := rfl
@[simp] theorem State.losePower_x (s : State) : (s.losePower).x = Config.unspecifiedX (s.resets + 1) := rfl
@[simp] theorem State.losePower_W (s : State) : (s.losePower).W = Config.unspecifiedW (s.resets + 1) := rfl
@[simp] theorem State.losePower_M (s : State) : (s.losePower).M = Config.unspecifiedM (s.resets + 1) := rfl
@[simp] theorem State.losePower_LEN (s : State) : (s.losePower).LEN = Config.unspecifiedLEN (s.resets + 1) := rfl
@[simp] theorem State.losePower_PHASE (s : State) : (s.losePower).PHASE = .idle := rfl
@[simp] theorem State.losePower_CAUSE (s : State) : (s.losePower).CAUSE = 0 := rfl
@[simp] theorem State.losePower_BADCHAR (s : State) : (s.losePower).BADCHAR = 0 := rfl
@[simp] theorem State.losePower_inbox (s : State) : (s.losePower).inbox = s.inbox := rfl
@[simp] theorem State.losePower_outbox (s : State) : (s.losePower).outbox = s.outbox := rfl
@[simp] theorem State.losePower_resets (s : State) : (s.losePower).resets = s.resets + 2 := rfl

/-! ### `offerWord` -/

@[simp] theorem State.offerWord_H (s : State) (w : Word) : (s.offerWord w).H = s.H := rfl
@[simp] theorem State.offerWord_x (s : State) (w : Word) : (s.offerWord w).x = s.x := rfl
@[simp] theorem State.offerWord_W (s : State) (w : Word) : (s.offerWord w).W = s.W := rfl
@[simp] theorem State.offerWord_M (s : State) (w : Word) : (s.offerWord w).M = s.M := rfl
@[simp] theorem State.offerWord_LEN (s : State) (w : Word) : (s.offerWord w).LEN = s.LEN := rfl
@[simp] theorem State.offerWord_PHASE (s : State) (w : Word) : (s.offerWord w).PHASE = s.PHASE := rfl
@[simp] theorem State.offerWord_CAUSE (s : State) (w : Word) : (s.offerWord w).CAUSE = s.CAUSE := rfl
@[simp] theorem State.offerWord_BADCHAR (s : State) (w : Word) : (s.offerWord w).BADCHAR = s.BADCHAR := rfl
@[simp] theorem State.offerWord_inbox (s : State) (w : Word) : (s.offerWord w).inbox = HostInput.command w :: s.inbox := rfl
@[simp] theorem State.offerWord_outbox (s : State) (w : Word) : (s.offerWord w).outbox = s.outbox := rfl
@[simp] theorem State.offerWord_resets (s : State) (w : Word) : (s.offerWord w).resets = s.resets := rfl

/-! ### `sched` -/

@[simp] theorem State.sched_H (s : State) : (s.sched).H = s.H := rfl
@[simp] theorem State.sched_x (s : State) : (s.sched).x = s.x := rfl
@[simp] theorem State.sched_W (s : State) : (s.sched).W = extendSchedule (copyBlock s.M s.W) := rfl
@[simp] theorem State.sched_M (s : State) : (s.sched).M = s.M := rfl
@[simp] theorem State.sched_LEN (s : State) : (s.sched).LEN = s.LEN := rfl
@[simp] theorem State.sched_PHASE (s : State) : (s.sched).PHASE = s.PHASE := rfl
@[simp] theorem State.sched_CAUSE (s : State) : (s.sched).CAUSE = s.CAUSE := rfl
@[simp] theorem State.sched_BADCHAR (s : State) : (s.sched).BADCHAR = s.BADCHAR := rfl
@[simp] theorem State.sched_inbox (s : State) : (s.sched).inbox = s.inbox := rfl
@[simp] theorem State.sched_outbox (s : State) : (s.sched).outbox = s.outbox := rfl
@[simp] theorem State.sched_resets (s : State) : (s.sched).resets = s.resets := rfl

/-! ### `loadWorking` -/

@[simp] theorem State.loadWorking_H (s : State) : (s.loadWorking).H = s.H := rfl
@[simp] theorem State.loadWorking_x (s : State) : (s.loadWorking).x = copyWords s.H s.x := rfl
@[simp] theorem State.loadWorking_W (s : State) : (s.loadWorking).W = s.W := rfl
@[simp] theorem State.loadWorking_M (s : State) : (s.loadWorking).M = s.M := rfl
@[simp] theorem State.loadWorking_LEN (s : State) : (s.loadWorking).LEN = s.LEN := rfl
@[simp] theorem State.loadWorking_PHASE (s : State) : (s.loadWorking).PHASE = s.PHASE := rfl
@[simp] theorem State.loadWorking_CAUSE (s : State) : (s.loadWorking).CAUSE = s.CAUSE := rfl
@[simp] theorem State.loadWorking_BADCHAR (s : State) : (s.loadWorking).BADCHAR = s.BADCHAR := rfl
@[simp] theorem State.loadWorking_inbox (s : State) : (s.loadWorking).inbox = s.inbox := rfl
@[simp] theorem State.loadWorking_outbox (s : State) : (s.loadWorking).outbox = s.outbox := rfl
@[simp] theorem State.loadWorking_resets (s : State) : (s.loadWorking).resets = s.resets := rfl

/-! ### `round` -/

@[simp] theorem State.round_H (s : State) (t : Fin 64) : (s.round t).H = s.H := rfl
@[simp] theorem State.round_x (s : State) (t : Fin 64) : (s.round t).x = roundStep s.W t s.x := rfl
@[simp] theorem State.round_W (s : State) (t : Fin 64) : (s.round t).W = s.W := rfl
@[simp] theorem State.round_M (s : State) (t : Fin 64) : (s.round t).M = s.M := rfl
@[simp] theorem State.round_LEN (s : State) (t : Fin 64) : (s.round t).LEN = s.LEN := rfl
@[simp] theorem State.round_PHASE (s : State) (t : Fin 64) : (s.round t).PHASE = s.PHASE := rfl
@[simp] theorem State.round_CAUSE (s : State) (t : Fin 64) : (s.round t).CAUSE = s.CAUSE := rfl
@[simp] theorem State.round_BADCHAR (s : State) (t : Fin 64) : (s.round t).BADCHAR = s.BADCHAR := rfl
@[simp] theorem State.round_inbox (s : State) (t : Fin 64) : (s.round t).inbox = s.inbox := rfl
@[simp] theorem State.round_outbox (s : State) (t : Fin 64) : (s.round t).outbox = s.outbox := rfl
@[simp] theorem State.round_resets (s : State) (t : Fin 64) : (s.round t).resets = s.resets := rfl

/-! ### `fold` -/

@[simp] theorem State.fold_H (s : State) : (s.fold).H = foldWords s.x s.H := rfl
@[simp] theorem State.fold_x (s : State) : (s.fold).x = s.x := rfl
@[simp] theorem State.fold_W (s : State) : (s.fold).W = s.W := rfl
@[simp] theorem State.fold_M (s : State) : (s.fold).M = s.M := rfl
@[simp] theorem State.fold_LEN (s : State) : (s.fold).LEN = s.LEN := rfl
@[simp] theorem State.fold_PHASE (s : State) : (s.fold).PHASE = s.PHASE := rfl
@[simp] theorem State.fold_CAUSE (s : State) : (s.fold).CAUSE = s.CAUSE := rfl
@[simp] theorem State.fold_BADCHAR (s : State) : (s.fold).BADCHAR = s.BADCHAR := rfl
@[simp] theorem State.fold_inbox (s : State) : (s.fold).inbox = s.inbox := rfl
@[simp] theorem State.fold_outbox (s : State) : (s.fold).outbox = s.outbox := rfl
@[simp] theorem State.fold_resets (s : State) : (s.fold).resets = s.resets := rfl

/-! ### `clearBlock` -/

@[simp] theorem State.clearBlock_H (s : State) : (s.clearBlock).H = s.H := rfl
@[simp] theorem State.clearBlock_x (s : State) : (s.clearBlock).x = s.x := rfl
@[simp] theorem State.clearBlock_W (s : State) : (s.clearBlock).W = s.W := rfl
@[simp] theorem State.clearBlock_M (s : State) : (s.clearBlock).M = zeroWords s.M := rfl
@[simp] theorem State.clearBlock_LEN (s : State) : (s.clearBlock).LEN = s.LEN := rfl
@[simp] theorem State.clearBlock_PHASE (s : State) : (s.clearBlock).PHASE = s.PHASE := rfl
@[simp] theorem State.clearBlock_CAUSE (s : State) : (s.clearBlock).CAUSE = s.CAUSE := rfl
@[simp] theorem State.clearBlock_BADCHAR (s : State) : (s.clearBlock).BADCHAR = s.BADCHAR := rfl
@[simp] theorem State.clearBlock_inbox (s : State) : (s.clearBlock).inbox = s.inbox := rfl
@[simp] theorem State.clearBlock_outbox (s : State) : (s.clearBlock).outbox = s.outbox := rfl
@[simp] theorem State.clearBlock_resets (s : State) : (s.clearBlock).resets = s.resets := rfl

/-! ### `byteIns` -/

@[simp] theorem State.byteIns_H (s : State) (v : Byte) : (s.byteIns v).H = s.H := rfl
@[simp] theorem State.byteIns_x (s : State) (v : Byte) : (s.byteIns v).x = s.x := rfl
@[simp] theorem State.byteIns_W (s : State) (v : Byte) : (s.byteIns v).W = s.W := rfl
@[simp] theorem State.byteIns_M (s : State) (v : Byte) : (s.byteIns v).M = s.M.set (byteWord (bytePos s.LEN)) (s.M[byteWord (bytePos s.LEN)] ||| (v.setWidth 32 <<< laneShift (bytePos s.LEN))) := rfl
@[simp] theorem State.byteIns_LEN (s : State) (v : Byte) : (s.byteIns v).LEN = s.LEN := rfl
@[simp] theorem State.byteIns_PHASE (s : State) (v : Byte) : (s.byteIns v).PHASE = s.PHASE := rfl
@[simp] theorem State.byteIns_CAUSE (s : State) (v : Byte) : (s.byteIns v).CAUSE = s.CAUSE := rfl
@[simp] theorem State.byteIns_BADCHAR (s : State) (v : Byte) : (s.byteIns v).BADCHAR = s.BADCHAR := rfl
@[simp] theorem State.byteIns_inbox (s : State) (v : Byte) : (s.byteIns v).inbox = s.inbox := rfl
@[simp] theorem State.byteIns_outbox (s : State) (v : Byte) : (s.byteIns v).outbox = s.outbox := rfl
@[simp] theorem State.byteIns_resets (s : State) (v : Byte) : (s.byteIns v).resets = s.resets := rfl

/-! ### `loadInitial` -/

@[simp] theorem State.loadInitial_H (s : State) : (s.loadInitial).H = copyWords Config.H0 s.H := rfl
@[simp] theorem State.loadInitial_x (s : State) : (s.loadInitial).x = s.x := rfl
@[simp] theorem State.loadInitial_W (s : State) : (s.loadInitial).W = s.W := rfl
@[simp] theorem State.loadInitial_M (s : State) : (s.loadInitial).M = s.M := rfl
@[simp] theorem State.loadInitial_LEN (s : State) : (s.loadInitial).LEN = s.LEN := rfl
@[simp] theorem State.loadInitial_PHASE (s : State) : (s.loadInitial).PHASE = s.PHASE := rfl
@[simp] theorem State.loadInitial_CAUSE (s : State) : (s.loadInitial).CAUSE = s.CAUSE := rfl
@[simp] theorem State.loadInitial_BADCHAR (s : State) : (s.loadInitial).BADCHAR = s.BADCHAR := rfl
@[simp] theorem State.loadInitial_inbox (s : State) : (s.loadInitial).inbox = s.inbox := rfl
@[simp] theorem State.loadInitial_outbox (s : State) : (s.loadInitial).outbox = s.outbox := rfl
@[simp] theorem State.loadInitial_resets (s : State) : (s.loadInitial).resets = s.resets := rfl

/-! ### `writeLength` -/

@[simp] theorem State.writeLength_H (s : State) (L : BitVec 64) : (s.writeLength L).H = s.H := rfl
@[simp] theorem State.writeLength_x (s : State) (L : BitVec 64) : (s.writeLength L).x = s.x := rfl
@[simp] theorem State.writeLength_W (s : State) (L : BitVec 64) : (s.writeLength L).W = s.W := rfl
@[simp] theorem State.writeLength_M (s : State) (L : BitVec 64) : (s.writeLength L).M = (s.M.set 14 (lengthHigh L)).set 15 (lengthLow L) := rfl
@[simp] theorem State.writeLength_LEN (s : State) (L : BitVec 64) : (s.writeLength L).LEN = s.LEN := rfl
@[simp] theorem State.writeLength_PHASE (s : State) (L : BitVec 64) : (s.writeLength L).PHASE = s.PHASE := rfl
@[simp] theorem State.writeLength_CAUSE (s : State) (L : BitVec 64) : (s.writeLength L).CAUSE = s.CAUSE := rfl
@[simp] theorem State.writeLength_BADCHAR (s : State) (L : BitVec 64) : (s.writeLength L).BADCHAR = s.BADCHAR := rfl
@[simp] theorem State.writeLength_inbox (s : State) (L : BitVec 64) : (s.writeLength L).inbox = s.inbox := rfl
@[simp] theorem State.writeLength_outbox (s : State) (L : BitVec 64) : (s.writeLength L).outbox = s.outbox := rfl
@[simp] theorem State.writeLength_resets (s : State) (L : BitVec 64) : (s.writeLength L).resets = s.resets := rfl

/-! ### `rounds` -/

@[simp] theorem State.rounds_H (s : State) : (s.rounds).H = s.H := rfl
@[simp] theorem State.rounds_x (s : State) : (s.rounds).x = roundLoop s.W s.x := rfl
@[simp] theorem State.rounds_W (s : State) : (s.rounds).W = s.W := rfl
@[simp] theorem State.rounds_M (s : State) : (s.rounds).M = s.M := rfl
@[simp] theorem State.rounds_LEN (s : State) : (s.rounds).LEN = s.LEN := rfl
@[simp] theorem State.rounds_PHASE (s : State) : (s.rounds).PHASE = s.PHASE := rfl
@[simp] theorem State.rounds_CAUSE (s : State) : (s.rounds).CAUSE = s.CAUSE := rfl
@[simp] theorem State.rounds_BADCHAR (s : State) : (s.rounds).BADCHAR = s.BADCHAR := rfl
@[simp] theorem State.rounds_inbox (s : State) : (s.rounds).inbox = s.inbox := rfl
@[simp] theorem State.rounds_outbox (s : State) : (s.rounds).outbox = s.outbox := rfl
@[simp] theorem State.rounds_resets (s : State) : (s.rounds).resets = s.resets := rfl

/-! ### `procblk`, which writes `W`, `x`, `H` and `M` -/

@[simp] theorem State.procblk_LEN (s : State) : s.procblk.LEN = s.LEN := by simp [State.procblk]
@[simp] theorem State.procblk_PHASE (s : State) : s.procblk.PHASE = s.PHASE := by simp [State.procblk]
@[simp] theorem State.procblk_CAUSE (s : State) : s.procblk.CAUSE = s.CAUSE := by simp [State.procblk]
@[simp] theorem State.procblk_BADCHAR (s : State) : s.procblk.BADCHAR = s.BADCHAR := by simp [State.procblk]
@[simp] theorem State.procblk_inbox (s : State) : s.procblk.inbox = s.inbox := by simp [State.procblk]
@[simp] theorem State.procblk_outbox (s : State) : s.procblk.outbox = s.outbox := by simp [State.procblk]
@[simp] theorem State.procblk_resets (s : State) : s.procblk.resets = s.resets := by simp [State.procblk]

/-! ### `takeTrap`, which writes the control registers and answers -/

@[simp] theorem State.takeTrap_H (s : State) (e : Trap) : (s.takeTrap e).H = s.H := by
  cases e <;> rfl
@[simp] theorem State.takeTrap_x (s : State) (e : Trap) : (s.takeTrap e).x = s.x := by
  cases e <;> rfl
@[simp] theorem State.takeTrap_W (s : State) (e : Trap) : (s.takeTrap e).W = s.W := by
  cases e <;> rfl
@[simp] theorem State.takeTrap_M (s : State) (e : Trap) : (s.takeTrap e).M = s.M := by
  cases e <;> rfl
@[simp] theorem State.takeTrap_LEN (s : State) (e : Trap) : (s.takeTrap e).LEN = s.LEN := by
  cases e <;> rfl
@[simp] theorem State.takeTrap_inbox (s : State) (e : Trap) : (s.takeTrap e).inbox = s.inbox := by
  cases e <;> rfl
@[simp] theorem State.takeTrap_resets (s : State) (e : Trap) : (s.takeTrap e).resets = s.resets := by
  cases e <;> rfl
@[simp] theorem State.takeTrap_outbox (s : State) (e : Trap) : (s.takeTrap e).outbox = s.outbox ++ [errResponse e.code] := by
  cases e <;> rfl

/-! ### `absorbByte` and `finish`: what the effects of ABSORB and FINAL leave alone -/

@[simp] theorem State.absorbByte_PHASE (s : State) (v : Byte) : (s.absorbByte v).PHASE = s.PHASE := by
  unfold State.absorbByte; dsimp only; split <;> simp
@[simp] theorem State.absorbByte_CAUSE (s : State) (v : Byte) : (s.absorbByte v).CAUSE = s.CAUSE := by
  unfold State.absorbByte; dsimp only; split <;> simp
@[simp] theorem State.absorbByte_BADCHAR (s : State) (v : Byte) : (s.absorbByte v).BADCHAR = s.BADCHAR := by
  unfold State.absorbByte; dsimp only; split <;> simp
@[simp] theorem State.absorbByte_inbox (s : State) (v : Byte) : (s.absorbByte v).inbox = s.inbox := by
  unfold State.absorbByte; dsimp only; split <;> simp
@[simp] theorem State.absorbByte_outbox (s : State) (v : Byte) : (s.absorbByte v).outbox = s.outbox := by
  unfold State.absorbByte; dsimp only; split <;> simp
@[simp] theorem State.absorbByte_resets (s : State) (v : Byte) : (s.absorbByte v).resets = s.resets := by
  unfold State.absorbByte; dsimp only; split <;> simp
@[simp] theorem State.absorbByte_LEN (s : State) (v : Byte) : (s.absorbByte v).LEN = s.LEN + 1 := by
  unfold State.absorbByte; dsimp only; split <;> simp
@[simp] theorem State.finish_LEN (s : State) : s.finish.LEN = s.LEN := by
  unfold State.finish; dsimp only; split <;> simp
@[simp] theorem State.finish_CAUSE (s : State) : s.finish.CAUSE = s.CAUSE := by
  unfold State.finish; dsimp only; split <;> simp
@[simp] theorem State.finish_BADCHAR (s : State) : s.finish.BADCHAR = s.BADCHAR := by
  unfold State.finish; dsimp only; split <;> simp
@[simp] theorem State.finish_inbox (s : State) : s.finish.inbox = s.inbox := by
  unfold State.finish; dsimp only; split <;> simp
@[simp] theorem State.finish_outbox (s : State) : s.finish.outbox = s.outbox := by
  unfold State.finish; dsimp only; split <;> simp
@[simp] theorem State.finish_resets (s : State) : s.finish.resets = s.resets := by
  unfold State.finish; dsimp only; split <;> simp
@[simp] theorem State.finish_PHASE (s : State) : s.finish.PHASE = .done := rfl

end Sys2Proof.Machine
end

