-- ==== Sys2Proof/Laws/Ops.lean ====
section
/-! SUPPORT. The shared operations, each by one lemma that says what it does: the word primitives as BitVec's own operations, the
copying and clearing loops, and an exception as one record update. -/

namespace Sys2Proof.Machine

/-- `add32` is the addition of 32-bit vectors. -/
theorem add32_eq (u v : Word) : add32 u v = u + v := by
  apply BitVec.eq_of_toNat_eq
  simp [add32, BitVec.toNat_add]

/-- `rotr` is BitVec's rotation, for the amounts the core uses. -/
theorem rotr_eq (u : Word) (n : Nat) (h : n < 32) : rotr u n = u.rotateRight n := by
  simp [rotr, BitVec.rotateRight, BitVec.rotateRightAux, Nat.mod_eq_of_lt h]

/-- A loop that writes element `t` at index `t`: afterwards the first `n` elements are the written ones, the others as before. -/
theorem forUpTo_set_getElem {m : Nat} (n : Nat) (hn : n ≤ m) (g : Fin n → Word) (v : Vector Word m) (k : Nat) (hk : k < m) :
    (forUpTo n (fun t v => v.set t.val (g t) (Nat.lt_of_lt_of_le t.isLt hn)) v)[k] = if h : k < n then g ⟨k, h⟩ else v[k] := by
  induction n with
  | zero => simp [forUpTo]
  | succ n ih =>
    have ih := ih (Nat.le_of_succ_le hn) (fun t => g t.castSucc)
    simp only [forUpTo, Fin.val_last, Vector.getElem_set, Fin.val_castSucc] at ih ⊢
    by_cases hkn : n = k
    · subst hkn; simp [Fin.last]
    · rw [if_neg hkn, ih]
      by_cases hlt : k < n
      · rw [dif_pos hlt, dif_pos (by omega)]; rfl
      · rw [dif_neg hlt, dif_neg (by omega)]

/-- The load of eight words copies them all. -/
theorem copyWords_eq (src dst : Words8) : copyWords src dst = src := by
  apply Vector.ext
  intro k hk
  rw [copyWords]
  exact (forUpTo_set_getElem 8 (Nat.le_refl 8) (fun t => src[t]) dst k hk).trans (by simp [hk])

/-- The clearing of the block buffer leaves sixteen zero words. -/
theorem zeroWords_eq (M : Block) : zeroWords M = Vector.replicate 16 0 := by
  apply Vector.ext
  intro k hk
  rw [zeroWords]
  exact (forUpTo_set_getElem 16 (Nat.le_refl 16) (fun _ => 0) M k hk).trans (by simp [hk])

/-- The loop of ROUNDs on the working registers is the loop of the micro-operation ROUND(t) on the state (43_compression.md R109). -/
theorem rounds_eq_loop (s : State) : s.rounds = forUpTo 64 (fun t s => s.round t) s := by
  have loop : ∀ (n : Nat) (f : Fin n → Words8 → Words8) (s : State),
      forUpTo n (fun t s => { s with x := f t s.x }) s = { s with x := forUpTo n f s.x } := by
    intro n
    induction n with
    | zero => intro f s; rfl
    | succ n ih => intro f s; simp only [forUpTo, ih (fun t => f t.castSucc)]
  have same : ∀ (n : Nat) (e : Fin n → Fin 64) (W : Schedule) (s : State), s.W = W →
      forUpTo n (fun t s => s.round (e t)) s = forUpTo n (fun t s => { s with x := roundStep W (e t) s.x }) s := by
    intro n
    induction n with
    | zero => intro e W s h; rfl
    | succ n ih =>
      intro e W s h
      simp only [forUpTo, ih (fun t => e t.castSucc) W s h]
      rw [loop n (fun t => roundStep W (e t.castSucc)) s]
      simp only [State.round, h]
  have h64 := same 64 (fun t => t) s.W s rfl
  rw [h64, loop 64 (roundStep s.W) s, State.rounds, roundLoop]

/-- A fatal exception, as one record update. -/
theorem takeTrap_of_fatal (s : State) (e : Trap) (h : e.fatal = true) :
    ∃ k c, s.takeTrap e = { s with PHASE := .failed, CAUSE := k, BADCHAR := c, outbox := s.outbox ++ [errResponse e.code] } := by
  cases e with
  | invalidByte c => exact ⟨1, c, rfl⟩
  | lengthOverflow c => exact ⟨4, c, rfl⟩
  | illegalCommand => simp [Trap.fatal] at h
  | sequenceError => simp [Trap.fatal] at h

/-- An exception that is not fatal writes no register. -/
theorem takeTrap_of_not_fatal (s : State) (e : Trap) (h : e.fatal = false) :
    s.takeTrap e = { s with outbox := s.outbox ++ [errResponse e.code] } := by
  cases e with
  | invalidByte c => simp [Trap.fatal] at h
  | lengthOverflow c => simp [Trap.fatal] at h
  | illegalCommand => rfl
  | sequenceError => rfl

end Sys2Proof.Machine
end

