-- ==== Sys2Proof/Laws/PerInstr.lean ====
section
/-! SUPPORT. What holds of every command as syntax, one lemma per constructor. -/

namespace Sys2Proof.Laws.Encoding

/-- The encoding of a command: operands in range (30_encoding.md R57), the table's `op` (R58), the must-be-zero field zero (R56). -/
def Statement (i : Instr) : Prop :=
  i.wellFormed = true ∧ zeroField (encode i) = 0 ∧
    opField (encode i) = match i with
      | .init => 1
      | .absorb _ => 2
      | .final => 3
      | .rdhex _ => 4
      | .rdstat => 5

theorem init : Statement .init := by simp [Statement, Instr.wellFormed, encode]

theorem absorb (c : Element) : Statement (.absorb c) := by
  have := c.isLt
  simp [Statement, Instr.wellFormed, encode]; omega

theorem final : Statement .final := by simp [Statement, Instr.wellFormed, encode]

theorem rdhex (i : BitVec 6) : Statement (.rdhex i) := by
  have := i.isLt
  simp [Statement, Instr.wellFormed, encode]; omega

theorem rdstat : Statement .rdstat := by simp [Statement, Instr.wellFormed, encode]

end Sys2Proof.Laws.Encoding
end

