-- ==== Sys2Proof/Laws/Pins.lean ====
section
/-! SUPPORT. The small facts of the pin layer: what the counted states are, and which response is pending. -/

namespace Sys2Proof.Machine.Pins

@[simp] theorem inFlight_settleFor (n : Nat) : (settleFor n).inFlight = false := by cases n <;> rfl

@[simp] theorem inFlight_busyFor (n : Nat) : (busyFor n).inFlight = true := by cases n <;> rfl

@[simp] theorem settleFor_ne_unreset (n : Nat) : settleFor n ≠ .unreset := by cases n <;> simp [settleFor]

@[simp] theorem busyFor_ne_unreset (n : Nat) : busyFor n ≠ .unreset := by cases n <;> simp [busyFor]

/-- Abandoning a command drops its response and changes nothing else. -/
theorem abandon_eq (p : PinState) :
    p.abandon = { p.core with outbox := if p.ctl.inFlight then p.core.outbox.dropLast else p.core.outbox } := by
  unfold PinState.abandon
  split <;> rfl

/-- With no command in flight nothing is pending. -/
theorem pendingResponses_of_idle (p : PinState) (h : p.ctl.inFlight = false) : pendingResponses p = [] := by
  simp [pendingResponses, h]

/-- With a command in flight its response is pending. -/
theorem pendingResponses_of_inFlight (p : PinState) (h : p.ctl.inFlight = true) : pendingResponses p = [p.response] := by
  simp [pendingResponses, h]

/-- The response offered depends on the core only, once there is one. -/
theorem response_eq_of_core_eq (p q : PinState) (h : p.core = q.core) (some_response : p.core.outbox ≠ []) :
    p.response = q.response := by
  unfold PinState.response
  rw [← h]
  cases last : p.core.outbox.getLast? with
  | none => exact absurd (List.getLast?_eq_none_iff.mp last) some_response
  | some r => rfl

end Sys2Proof.Machine.Pins
end

