-- ==== Sys2Proof/Laws/Step.lean ====
section
/-! SUPPORT. What a step can do, once: one case analysis for each meaning and one for the step. -/

namespace Sys2Proof.Machine

/-- INIT answers one state. -/
theorem execInit_eq (s t : State) (h : execInit s = .next t) :
    t = { s with H := Config.H0, M := Vector.replicate 16 0, LEN := 0, PHASE := .absorbing, CAUSE := 0, BADCHAR := 0, outbox := s.outbox ++ [okResponse 0] } := by
  have e := Host.Outcome.next.inj h
  rw [← e]
  simp only [State.loadInitial, State.clearBlock, State.clearTrapRecord, State.respond, copyWords_eq, zeroWords_eq]

/-- ABSORB: one of three exceptions, or the byte is taken in. -/
theorem execAbsorb_cases (c : Element) (s t : State) (h : execAbsorb c s = .next t) :
    (s.PHASE ≠ .absorbing ∧ t = s.takeTrap .sequenceError) ∨
    (s.PHASE = .absorbing ∧ validElement c = false ∧ t = s.takeTrap (.invalidByte c)) ∨
    (s.PHASE = .absorbing ∧ validElement c = true ∧ lengthFull s.LEN = true ∧ t = s.takeTrap (.lengthOverflow c)) ∨
    (s.PHASE = .absorbing ∧ validElement c = true ∧ lengthFull s.LEN = false ∧
      t = (s.absorbByte (elementByte c)).respond (okResponse 0)) := by
  unfold execAbsorb at h
  split at h
  · exact .inl ⟨‹_›, (Host.Outcome.next.inj h).symm⟩
  · have hp : s.PHASE = .absorbing := by simpa using ‹¬ s.PHASE ≠ .absorbing›
    split at h
    · exact .inr (.inl ⟨hp, by simpa using ‹¬ validElement c = true›, (Host.Outcome.next.inj h).symm⟩)
    · have hv : validElement c = true := by simpa using ‹¬ ¬ validElement c = true›
      split at h
      · exact .inr (.inr (.inl ⟨hp, hv, ‹_›, (Host.Outcome.next.inj h).symm⟩))
      · exact .inr (.inr (.inr ⟨hp, hv, by simpa using ‹¬ lengthFull s.LEN = true›, (Host.Outcome.next.inj h).symm⟩))

/-- FINAL: an exception, or the digest is finished. -/
theorem execFinal_cases (s t : State) (h : execFinal s = .next t) :
    (s.PHASE ≠ .absorbing ∧ t = s.takeTrap .sequenceError) ∨ (s.PHASE = .absorbing ∧ t = s.finish.respond (okResponse 0)) := by
  unfold execFinal at h
  split at h
  · exact .inl ⟨‹_›, (Host.Outcome.next.inj h).symm⟩
  · exact .inr ⟨by simpa using ‹¬ s.PHASE ≠ .absorbing›, (Host.Outcome.next.inj h).symm⟩

/-- RDHEX: an exception, or one digit is answered. -/
theorem execRdhex_cases (i : BitVec 6) (s t : State) (h : execRdhex i s = .next t) :
    (s.PHASE ≠ .done ∧ t = s.takeTrap .sequenceError) ∨
    (s.PHASE = .done ∧ t = s.respond (okResponse ((s.hexnib i).setWidth 32))) := by
  unfold execRdhex at h
  split at h
  · exact .inl ⟨‹_›, (Host.Outcome.next.inj h).symm⟩
  · exact .inr ⟨by simpa using ‹¬ s.PHASE ≠ .done›, (Host.Outcome.next.inj h).symm⟩

/-- RDSTAT answers the STATUS view. -/
theorem execRdstat_eq (s t : State) (h : execRdstat s = .next t) : t = s.respond (okResponse s.status) :=
  (Host.Outcome.next.inj h).symm

/-- One word: an exception that writes nothing, or the meaning of the command it decodes to. -/
theorem runWord_cases (w : Word) (s t : State) (h : runWord w s = .next t) :
    ((∃ why, decode w = .error why) ∧ t = s.takeTrap .illegalCommand) ∨ (∃ i, decode w = .ok i ∧ exec i s = .next t) := by
  unfold runWord at h
  split at h
  · exact .inr ⟨_, ‹_›, h⟩
  · exact .inl ⟨⟨_, ‹_›⟩, (Host.Outcome.next.inj h).symm⟩

/-- A step: nothing to do, a reset, the removal of power, or one command word. -/
theorem step_cases (s t : State) (h : step s = .next t) :
    (s.inbox = [] ∧ t = s) ∨
    (∃ rest, s.inbox = .reset :: rest ∧ t = State.applyReset { s with inbox := rest }) ∨
    (∃ rest, s.inbox = .removePower :: rest ∧ t = State.losePower { s with inbox := rest }) ∨
    (∃ w rest, s.inbox = .command w :: rest ∧ runWord w { s with inbox := rest } = .next t) := by
  unfold step runNext at h
  split at h
  · exact .inl ⟨‹_›, (Host.Outcome.next.inj h).symm⟩
  · rename_i a rest hin
    cases a with
    | command w => exact .inr (.inr (.inr ⟨w, rest, hin, h⟩))
    | reset => exact .inr (.inl ⟨rest, hin, (Host.Outcome.next.inj h).symm⟩)
    | removePower => exact .inr (.inr (.inl ⟨rest, hin, (Host.Outcome.next.inj h).symm⟩))

end Sys2Proof.Machine
end

