-- ==== Sys2Proof/Laws/Run.lean ====
section
/-! SUPPORT. Runs of several steps: one step at the front, and that a command does not look at the inputs still to come. -/

namespace Sys2Proof.Machine

/-- A run begins with its first step. -/
theorem reaches_succ {k : Nat} {s t u : State} (h : step s = .next t) : Reaches (k + 1) s u ↔ Reaches k t u := by
  have first : Sys2Proof.core.step s = .next t := h
  simp only [Reaches, Host.Core.run, first]

/-- PROCBLK does not look at the inputs still to come. -/
theorem procblk_inbox (s : State) (X : List HostInput) : State.procblk { s with inbox := X } = { s.procblk with inbox := X } := rfl

/-- A command runs alike whatever inputs are still to come, and leaves them. -/
theorem exec_inbox (i : Instr) (s t : State) (X : List HostInput) (h : exec i s = .next t) :
    exec i { s with inbox := X } = .next { t with inbox := X } := by
  cases i with
  | init => rw [← Host.Outcome.next.inj h]; rfl
  | rdstat => rw [← Host.Outcome.next.inj h]; rfl
  | rdhex k =>
    simp only [exec, execRdhex] at h ⊢
    split at h <;> rw [← Host.Outcome.next.inj h]
    · rw [if_pos ‹_›]; rfl
    · rw [if_neg ‹_›]; rfl
  | final =>
    simp only [exec, execFinal] at h ⊢
    split at h <;> rw [← Host.Outcome.next.inj h]
    · rw [if_pos ‹_›]; rfl
    · rw [if_neg ‹_›]
      simp only [State.finish]
      split <;> rfl
  | absorb c =>
    simp only [exec, execAbsorb] at h ⊢
    split at h
    · rw [← Host.Outcome.next.inj h, if_pos ‹_›]; rfl
    · rw [if_neg ‹_›]
      split at h
      · rw [← Host.Outcome.next.inj h, if_pos ‹_›]; rfl
      · rw [if_neg ‹_›]
        split at h
        · rw [← Host.Outcome.next.inj h, if_pos ‹_›]; rfl
        · rw [← Host.Outcome.next.inj h, if_neg ‹_›]
          simp only [State.absorbByte]
          split <;> rfl

/-- A word runs alike whatever inputs are still to come, and leaves them. -/
theorem runWord_inbox (w : Word) (s t : State) (X : List HostInput) (h : runWord w s = .next t) :
    runWord w { s with inbox := X } = .next { t with inbox := X } := by
  unfold runWord at h ⊢
  split at h
  · exact exec_inbox _ _ _ _ h
  · rw [← Host.Outcome.next.inj h]; rfl

end Sys2Proof.Machine
end

