-- ==== Sys2Proof/Tests/Slice0.lean ====
section
/-! SUPPORT. The model's own tests and the witnesses of the statements' hypotheses. Expected results come from the spec: the words of
30_encoding.md R58, the examples in the rules, and 95_test_vectors.md. -/

namespace Sys2Proof.Tests

open Sys2Proof.Machine

/-! ### Small states -/

/-- A state in the given phase and with the given length; everything else as after reset. -/
def at_ (p : Phase) (LEN : BitVec 61) : State := { State.reset with PHASE := p, LEN := LEN }

/-- ABSORBING with the one byte 0x61 taken in (95_test_vectors.md P1 row 2). -/
def oneByte : State :=
  { at_ .absorbing 1 with H := Config.H0, M := (Vector.replicate 16 0).set 0 0x61000000 }

/-- ABSORBING with `abc` taken in (95_test_vectors.md P1 row 4). -/
def abcTaken : State :=
  { at_ .absorbing 3 with H := Config.H0, M := (Vector.replicate 16 0).set 0 0x61626300 }

/-- The digest of `abc` (95_test_vectors.md P1 row 6). -/
def abcDigest : Words8 :=
  #v[0xba7816bf, 0x8f01cfea, 0x414140de, 0x5dae2223, 0xb00361a3, 0x96177a9c, 0xb410ff61, 0xf20015ad]

/-- DONE with the digest of `abc` in `H`. -/
def abcDone : State := { at_ .done 3 with H := abcDigest }

/-- The answer is a next state, and it passes. -/
def nextWith (o : Host.Outcome State Fault Refusal) (ok : State → Bool) : Bool :=
  match o with
  | .next s => ok s
  | .fault _ => false
  | .refused _ => false

/-! ### Decoding: words written out bit by bit from the patterns of 30_encoding.md R58 -/

theorem test_decode_init : decode 0b00010000000000000000000000000000 = .ok .init := by decide
theorem test_decode_absorb : decode 0b00100000000000000000000001100001 = .ok (.absorb 0x61) := by decide
theorem test_decode_absorb_top : decode 0b00100000000000001111111111111111 = .ok (.absorb 65535) := by decide
theorem test_decode_final : decode 0b00110000000000000000000000000000 = .ok .final := by decide
theorem test_decode_rdhex : decode 0b01000000000000000000000000100101 = .ok (.rdhex 37) := by decide
theorem test_decode_rdhex_top : decode 0b01000000000000000000000000111111 = .ok (.rdhex 63) := by decide
theorem test_decode_rdstat : decode 0b01010000000000000000000000000000 = .ok .rdstat := by decide

/-- The refusals of 95_test_vectors.md section 9. -/
theorem test_decode_refuses :
    decode 0x00000000 = .error .unassignedOp ∧ decode 0xffffffff = .error .zeroFieldSet ∧
    decode 0x10000001 = .error .argumentSet ∧ decode 0x20010061 = .error .zeroFieldSet ∧
    decode 0x30000001 = .error .argumentSet ∧ decode 0x40000040 = .error .indexTooLarge ∧
    decode 0x50000001 = .error .argumentSet ∧ decode 0x60000000 = .error .unassignedOp ∧
    decode 0xf0000000 = .error .unassignedOp ∧ decode 0x18000000 = .error .zeroFieldSet := by decide

/-- 30_encoding.md R59: `encode(ABSORB(c)) = 0x20000000 + c` and the others. -/
theorem test_encode :
    encode .init = 0x10000000 ∧ encode (.absorb 0x61) = 0x20000061 ∧ encode .final = 0x30000000 ∧
    encode (.rdhex 5) = 0x40000005 ∧ encode .rdstat = 0x50000000 := by decide

theorem test_decodeTableWord : decodeTableWord 32 0x40000007 = some (.rdhex 7) ∧ decodeTableWord 32 0x40000047 = none := by decide

/-! ### Well-formedness: each check refuses an ill-formed term -/

theorem test_illegal_op : legalWord 0x60000000 = false ∧ legalWord 0x00000000 = false := by decide
theorem test_illegal_init_argument : legalWord 0x10000001 = false := by decide
theorem test_illegal_absorb_zero_field : legalWord 0x20010061 = false := by decide
theorem test_illegal_final_argument : legalWord 0x30000001 = false := by decide
theorem test_illegal_rdhex_index : legalWord 0x40000040 = false := by decide
theorem test_illegal_rdstat_argument : legalWord 0x50000001 = false := by decide
theorem test_legal_words : legalWord 0x2000ffff = true ∧ legalWord 0x4000003f = true := by decide

/-- An operand outside its range is an assembly error (30_encoding.md R68). -/
theorem test_operands_out_of_range :
    (AsmLine.absorb 65536).words = none ∧ (AsmLine.rdhex 64).words = none ∧ (AsmLine.rawWord (2 ^ 32)).words = none ∧
    (AsmLine.absorbs [0x61, 65536]).words = none ∧ (AsmLine.hash [65536]).words = none := by decide

/-- Every `Instr` has its operands in range, by its types. -/
theorem test_wellFormed : (Instr.absorb 65535).wellFormed = true ∧ (Instr.rdhex 63).wellFormed = true := by decide

/-! ### One step at a time -/

/-- 41_preprocessor.md R81, example. -/
theorem test_init :
    nextWith (step ((at_ .failed 77).withFetchWord 32 0x10000000)) (fun s =>
      s.PHASE = .absorbing ∧ s.LEN = 0 ∧ s.H[0] = 0x6a09e667 ∧ s.H[7] = 0x5be0cd19 ∧ s.outbox = [⟨false, 0⟩]) = true := by
  decide +kernel

/-- 41_preprocessor.md R85, example: after INIT, `ABSORB 0x61`. -/
theorem test_absorb_places_the_byte :
    nextWith (step ({ at_ .absorbing 0 with H := Config.H0 }.withFetchWord 32 0x20000061)) (fun s =>
      s.M[0] = 0x61000000 ∧ s.LEN = 1 ∧ s.outbox = [⟨false, 0⟩]) = true := by decide +kernel

/-- 95_test_vectors.md P2 step 3: the 64th `a`. -/
theorem test_absorb_compresses_the_64th_byte :
    nextWith (step ({ at_ .absorbing 63 with
        H := Config.H0, M := (Vector.replicate 16 0x61616161).set 15 0x61616100 }.withFetchWord 32 0x20000061)) (fun s =>
      s.LEN = 64 ∧ s.M = Vector.replicate 16 0 ∧
      s.H = #v[0xdf5bb81c, 0xe81e0626, 0xfb45a894, 0x4fd40f31, 0xb25e6816, 0xd6d499c1, 0xab904929, 0x00635e66]) = true := by
  decide +kernel

/-- 95_test_vectors.md P1 row 6. -/
theorem test_final_abc :
    nextWith (step (abcTaken.withFetchWord 32 0x30000000)) (fun s =>
      s.PHASE = .done ∧ s.H = abcDigest ∧ s.LEN = 3 ∧ s.outbox = [⟨false, 0⟩]) = true := by decide +kernel

/-- 41_preprocessor.md R88: a second FINAL raises SequenceError. -/
theorem test_final_twice :
    nextWith (step (abcDone.withFetchWord 32 0x30000000)) (fun s =>
      s.PHASE = .done ∧ s.H = abcDigest ∧ s.outbox = [⟨true, 3⟩]) = true := by decide +kernel

/-- 44_encoder.md R121, example: 'b', and 'd' at the other end (95_test_vectors.md P1 row 71). -/
theorem test_rdhex_first : nextWith (step (abcDone.withFetchWord 32 0x40000000)) (fun s => s.outbox = [⟨false, 0x62⟩]) = true := by
  decide +kernel
theorem test_rdhex_last : nextWith (step (abcDone.withFetchWord 32 0x4000003f)) (fun s => s.outbox = [⟨false, 0x64⟩]) = true := by
  decide +kernel

/-- 45_control.md R131, examples. -/
theorem test_rdstat_after_invalidByte :
    nextWith (step ({ at_ .failed 0 with CAUSE := 1, BADCHAR := 0x100 }.withFetchWord 32 0x50000000)) (fun s =>
      s.outbox = [⟨false, 0x01000007⟩]) = true := by decide +kernel
theorem test_rdstat_after_lengthOverflow :
    nextWith (step ({ at_ .failed 0 with CAUSE := 4, BADCHAR := 0x41 }.withFetchWord 32 0x50000000)) (fun s =>
      s.outbox = [⟨false, 0x00410013⟩]) = true := by decide +kernel

/-- 95_test_vectors.md section 9, exception priority. -/
theorem test_invalidByte_before_lengthOverflow :
    nextWith (step ((at_ .absorbing (BitVec.allOnes 61)).withFetchWord 32 0x20000100)) (fun s =>
      s.PHASE = .failed ∧ s.CAUSE = 1 ∧ s.BADCHAR = 0x100 ∧ s.outbox = [⟨true, 1⟩]) = true := by decide +kernel
theorem test_lengthOverflow :
    nextWith (step ((at_ .absorbing (BitVec.allOnes 61)).withFetchWord 32 0x20000041)) (fun s =>
      s.PHASE = .failed ∧ s.CAUSE = 4 ∧ s.BADCHAR = 0x41 ∧ s.outbox = [⟨true, 4⟩]) = true := by decide +kernel
theorem test_sequenceError_before_invalidByte :
    nextWith (step (abcDone.withFetchWord 32 0x20000100)) (fun s =>
      s.PHASE = .done ∧ s.CAUSE = 0 ∧ s.outbox = [⟨true, 3⟩]) = true := by decide +kernel
theorem test_illegalCommand_before_sequenceError :
    nextWith (step ((at_ .failed 0).withFetchWord 32 0x20010100)) (fun s =>
      s.PHASE = .failed ∧ s.outbox = [⟨true, 2⟩]) = true := by decide +kernel

/-- 70_reset_and_hazards.md R156: a reset in a run. -/
theorem test_reset_input :
    nextWith (step { at_ .failed 3 with CAUSE := 1, BADCHAR := 0x20ac, inbox := [.reset] }) (fun s =>
      s.PHASE = .idle ∧ s.CAUSE = 0 ∧ s.BADCHAR = 0 ∧ s.inbox = []) = true := by decide +kernel

/-- 60_exceptions.md R154: the removal of power, as a reset for the control registers. -/
theorem test_removePower :
    nextWith (step { at_ .done 3 with inbox := [.removePower, .command 0x50000000] }) (fun s =>
      s.PHASE = .idle ∧ s.CAUSE = 0 ∧ s.BADCHAR = 0 ∧ s.inbox = [.command 0x50000000]) = true := by decide +kernel

/-- 60_exceptions.md R154, 70_reset_and_hazards.md R159: after power is removed an edge has no meaning until a reset. -/
theorem test_removePower_at_the_pins (p : Pins.PinState) :
    Pins.event p .removePower = .next p.removePower ∧
    Pins.edge p.removePower ⟨false, true, 0x10000000, true⟩ = .refused .beforeFirstReset := ⟨rfl, rfl⟩

/-! ### Micro-operations and functions -/

/-- 41_preprocessor.md R83, example. -/
theorem test_byteIns :
    (State.byteIns { at_ .absorbing 2 with M := (Vector.replicate 16 0).set 0 0x61620000 } 0x63).M[0] = 0x61626300 := by decide

/-- 43_compression.md R108, example: round 0 of `abc`. -/
theorem test_round :
    (State.round { State.reset with x := Config.H0, W := (Vector.replicate 64 0).set 0 0x61626380 } 0).x =
      #v[0x5d6aebcd, 0x6a09e667, 0xbb67ae85, 0x3c6ef372, 0xfa2a4622, 0x510e527f, 0x9b05688c, 0x1f83d9ab] := by decide +kernel

/-- 42_scheduler.md R101, example, and the last word of 95_test_vectors.md section 5. -/
theorem test_sched :
    let W := (State.sched { State.reset with M := ((Vector.replicate 16 0).set 0 0x61626380).set 15 0x18 }).W
    W[16] = 0x61626380 ∧ W[17] = 0x000f0000 ∧ W[63] = 0x12b1edeb := by decide +kernel

/-- 95_test_vectors.md section 8. -/
theorem test_encodeDigest :
    (encodeDigest #v[0x01234567, 0x89abcdef, 0x0000000a, 0xa0000000, 0, 0x0f0f0f0f, 0xf0f0f0f0, 0x00010203]).take 24 =
      ['0', '1', '2', '3', '4', '5', '6', '7', '8', '9', 'a', 'b', 'c', 'd', 'e', 'f', '0', '0', '0', '0', '0', '0', '0', 'a'] := by
  decide +kernel

/-- 41_preprocessor.md R91, examples. -/
theorem test_pad_lengths :
    [0, 55, 56, 63, 64, 119, 120].map (fun n => (pad (List.replicate n 0x61)).toOption.map List.length) =
      [some 1, some 1, some 2, some 2, some 2, some 2, some 3] := by decide +kernel

/-- 00_scope.md R5: the message of `buildApiSignature("K", "S", 1000)` is `KS1000`. -/
theorem test_signMessage : signMessage [0x4b] [0x53] 1000 = [0x4b, 0x53, 0x31, 0x30, 0x30, 0x30] := by decide +kernel

/-- 30_encoding.md R68: a quoted character, a comment, an operand out of range. -/
theorem test_assembleLine :
    assembleLine ['A', 'B', 'S', 'O', 'R', 'B', ' ', '\'', 'a', '\'', ' ', ';', ' ', 'x'] = some [0x20000061] ∧
    assembleLine ['R', 'D', 'H', 'E', 'X', ' ', '0', 'x', '3', 'f'] = some [0x4000003f] ∧
    assembleLine ['R', 'D', 'H', 'E', 'X', ' ', '6', '4'] = none := by decide +kernel

/-- 41_preprocessor.md R80: the one block of the message `a`. -/
theorem test_pad_oneByte : (pad [0x61]).toOption = some [((Vector.replicate 16 0).set 0 0x61800000).set 15 8] := by decide +kernel

/-- 41_preprocessor.md R82: no result for a sequence with an element above 255. -/
theorem test_computeDigestHex_rejects : computeDigestHex [0x61, 0x20ac, 0x62] = .error .invalidByte := by decide +kernel

/-- 70_reset_and_hazards.md R159, R167: no meaning before the first reset; a host that withdraws its offer has no move. -/
theorem test_pin_stops :
    Pins.edge (.powerOn State.reset) ⟨false, true, 0x10000000, true⟩ = .refused .beforeFirstReset ∧
    Pins.edge ⟨State.reset, .settling 2, some 0x10000000, 1⟩ ⟨false, false, 0, true⟩ = .fault .hostBrokeHandshake := ⟨rfl, rfl⟩

/-! ### The statements' hypotheses can be met

One witness for each statement with hypotheses, and for each clause of one that has several, at boundary values. -/

theorem witness_StepRunsTheDecodedCommand :
    ∃ (s : State) (w : Word) (rest : List HostInput) (i : Instr), s.inbox = .command w :: rest ∧ decode w = .ok i :=
  ⟨State.reset.offerWord 0x10000000, 0x10000000, [], .init, by decide⟩

theorem witness_IllegalWordRaisesIllegalCommand :
    ∃ (s : State) (w : Word) (rest : List HostInput) (why : Illegal), s.inbox = .command w :: rest ∧ decode w = .error why :=
  ⟨State.reset.offerWord 0x40000040, 0x40000040, [], .indexTooLarge, by decide⟩

theorem witness_StepWithoutInputChangesNothing : State.reset.inbox = [] := by decide

theorem witness_ResetInputClearsTheControlRegisters :
    (∃ (s : State) (rest : List HostInput), s.inbox = .reset :: rest) ∧
    ∃ (s : State) (rest : List HostInput), s.inbox = .removePower :: rest :=
  ⟨⟨{ State.reset with inbox := [.reset, .command 0x10000000] }, [.command 0x10000000], by decide⟩,
    { at_ .done 3 with inbox := [.removePower] }, [], by decide⟩

theorem witness_EncodeOfDecodeIsTheWord : decode 0x4000003f = .ok (.rdhex 63) := by decide

/-- One word for each clause of the list: `zero`, `op` 0, `op` 6, an argument, an index; and a word none of them holds of. -/
theorem witness_IllegalWordsAreTheListedOnes :
    zeroField 0x20010061 ≠ 0 ∧ opField 0x00000000 = 0x0 ∧ 0x6 ≤ (opField 0x60000000).toNat ∧
    (opField 0x10000001 = 0x1 ∧ argField 0x10000001 ≠ 0) ∧ (opField 0x30000001 = 0x3 ∧ argField 0x30000001 ≠ 0) ∧
    (opField 0x50000001 = 0x5 ∧ argField 0x50000001 ≠ 0) ∧ (opField 0x40000040 = 0x4 ∧ 64 ≤ (argField 0x40000040).toNat) ∧
    decode 0x4000003f = .ok (.rdhex 63) := by decide

/-- At both ends of a block, with the largest byte. -/
theorem witness_AbsorbPlacesAndCountsTheByte :
    ((at_ .absorbing 0).PHASE = .absorbing ∧ (255 : Element).toNat ≤ 255 ∧
      (at_ .absorbing 0).LEN.toNat ≠ 2 ^ 61 - 1 ∧ (at_ .absorbing 0).LEN.toNat % 64 ≠ 63) ∧
    ((at_ .absorbing 62).PHASE = .absorbing ∧ (0 : Element).toNat ≤ 255 ∧
      (at_ .absorbing 62).LEN.toNat ≠ 2 ^ 61 - 1 ∧ (at_ .absorbing 62).LEN.toNat % 64 ≠ 63) := by decide

/-- The greatest length below the bound with a full block is 2^61 - 65. -/
theorem witness_AbsorbCompressesTheFullBlock :
    ((at_ .absorbing 63).PHASE = .absorbing ∧ (255 : Element).toNat ≤ 255 ∧
      (at_ .absorbing 63).LEN.toNat ≠ 2 ^ 61 - 1 ∧ (at_ .absorbing 63).LEN.toNat % 64 = 63) ∧
    ((at_ .absorbing (2 ^ 61 - 65)).PHASE = .absorbing ∧
      (at_ .absorbing (2 ^ 61 - 65)).LEN.toNat ≠ 2 ^ 61 - 1 ∧ (at_ .absorbing (2 ^ 61 - 65)).LEN.toNat % 64 = 63) := by
  decide +kernel

theorem witness_ByteInsWritesOneByteOfTheBuffer :
    byteAt oneByte.M (bytePos oneByte.LEN) = 0 ∧ byteAt (at_ .absorbing 63).M (bytePos (at_ .absorbing 63).LEN) = 0 := by decide

/-- One PROCBLK up to `p = 55`, two from `p = 56`. -/
theorem witness_FinalPadsAndFinishesTheDigest :
    ((at_ .absorbing 55).PHASE = .absorbing ∧ ¬ 56 ≤ (at_ .absorbing 55).LEN.toNat % 64) ∧
    ((at_ .absorbing 56).PHASE = .absorbing ∧ 56 ≤ (at_ .absorbing 56).LEN.toNat % 64) := by decide

theorem witness_RdhexAnswersTheDigit : abcDone.PHASE = .done ∧ (63 : BitVec 6).toNat / 8 = 7 := by decide

theorem witness_RdhexReadsTheEncodedDigest : abcDone.PHASE = .done := by decide

theorem witness_WrongPhaseRaisesSequenceError :
    (at_ .idle 0).PHASE ≠ .absorbing ∧ (at_ .done 0).PHASE ≠ .absorbing ∧ (at_ .failed 0).PHASE ≠ .absorbing ∧
    (at_ .idle 0).PHASE ≠ .done ∧ (at_ .absorbing 0).PHASE ≠ .done ∧ (at_ .failed 0).PHASE ≠ .done := by decide

theorem witness_InvalidByteEndsTheComputation :
    (at_ .absorbing 5).PHASE = .absorbing ∧ 255 < (256 : Element).toNat ∧ 255 < (65535 : Element).toNat := by decide

theorem witness_LengthOverflowEndsTheComputation :
    (at_ .absorbing (BitVec.allOnes 61)).PHASE = .absorbing ∧ (at_ .absorbing (BitVec.allOnes 61)).LEN.toNat = 2 ^ 61 - 1 ∧
    (255 : Element).toNat ≤ 255 := by decide

/-- `runWord` answers an error response with this code. -/
def givesError (w : Word) (s : State) (code : Word) : Prop :=
  ∃ t r, runWord w s = .next t ∧ t.outbox = s.outbox ++ [r] ∧ r.err = true ∧ r.data = code

/-- Each of the four codes is given by some word in some state. -/
theorem witness_ExceptionsArePrecise :
    givesError 0x20000100 (at_ .absorbing 0) 1 ∧ givesError 0x10000001 (at_ .absorbing 0) 2 ∧
    givesError 0x40000000 (at_ .absorbing 0) 3 ∧ givesError 0x200000ff (at_ .absorbing (BitVec.allOnes 61)) 4 :=
  ⟨⟨_, ⟨true, 1⟩, rfl, rfl, rfl, rfl⟩, ⟨_, ⟨true, 2⟩, rfl, rfl, rfl, rfl⟩, ⟨_, ⟨true, 3⟩, rfl, rfl, rfl, rfl⟩,
    ⟨_, ⟨true, 4⟩, rfl, rfl, rfl, rfl⟩⟩

theorem witness_FatalCauseStaysUntilInit :
    (at_ .failed 0).PHASE = .failed ∧ (∃ t, runWord 0x20000061 (at_ .failed 0) = .next t) ∧ decode 0x20000061 ≠ .ok .init ∧
    (∃ t, runWord 0x10000000 (at_ .failed 0) = .next t) ∧ decode 0x10000000 = .ok .init :=
  ⟨rfl, ⟨_, rfl⟩, by decide, ⟨_, rfl⟩, by decide⟩

/-- Each case of the answer's data: an exception, INIT, RDSTAT, RDHEX. -/
theorem witness_EveryCommandGivesOneResponse :
    givesError 0x00000000 State.reset 2 ∧ decode 0x10000000 = .ok .init ∧ decode 0x20000061 = .ok (.absorb 0x61) ∧
    decode 0x30000000 = .ok .final ∧ decode 0x50000000 = .ok .rdstat ∧ decode 0x4000003f = .ok (.rdhex 63) ∧
    (∃ t, runWord 0x4000003f abcDone = .next t ∧ t.outbox = [⟨false, 0x64⟩]) :=
  ⟨⟨_, ⟨true, 2⟩, rfl, rfl, rfl, rfl⟩, by decide, by decide, by decide, by decide, by decide, ⟨_, rfl, by decide +kernel⟩⟩

theorem witness_PhaseChangesOnlyOnTheListedEvents :
    (∃ t, step State.reset = .next t) ∧ (∃ t, step { State.reset with inbox := [.reset] } = .next t) ∧
    (∃ t, step { abcDone with inbox := [.removePower] } = .next t) ∧ (∃ t, step (abcTaken.offerWord 0x30000000) = .next t) :=
  ⟨⟨_, rfl⟩, ⟨_, rfl⟩, ⟨_, rfl⟩, ⟨_, rfl⟩⟩

/-- A command that compresses nothing and one that compresses a block. -/
theorem witness_ChainingStateFoldsTheCompressedBlocks :
    (Instr.rdstat ≠ .init ∧ ∃ t, exec .rdstat State.reset = .next t) ∧
    (Instr.final ≠ .init ∧ ∃ t, exec .final abcTaken = .next t) := ⟨⟨by decide, ⟨_, rfl⟩⟩, by decide, ⟨_, rfl⟩⟩

theorem witness_WordPrimitivesAreAsDefined : (0 < 1 ∧ 1 < 32) ∧ (0 < 31 ∧ 31 < 32) := by decide

theorem witness_ExpandFollowsTheRecurrence : (15 < 16 ∧ 16 ≤ 16 ∧ 16 < 64) ∧ (16 ≤ 63 ∧ 63 < 64) := by decide

/-- The empty message, the longest one, and the first one too long; and a number of zeros that is too few. -/
theorem witness_PaddingFillsWholeBlocks :
    ([] : List Byte).length ≤ 2 ^ 61 - 1 ∧ (List.replicate (2 ^ 61 - 1) (0 : Byte)).length ≤ 2 ^ 61 - 1 ∧
    2 ^ 61 - 1 < (List.replicate (2 ^ 61) (0 : Byte)).length ∧ 54 < zeroCount 0 := by
  simp only [List.length_replicate, List.length_nil]
  decide

/-- On both sides of 56 bytes, and the longest message. -/
theorem witness_PadGivesTheStatedNumberOfBlocks :
    (List.replicate 55 (0 : Byte)).length % 64 ≤ 55 ∧ 56 ≤ (List.replicate 56 (0 : Byte)).length % 64 ∧
    (List.replicate (2 ^ 61 - 1) (0 : Byte)).length ≤ 2 ^ 61 - 1 ∧
    56 ≤ (List.replicate (2 ^ 61 - 1) (0 : Byte)).length % 64 := by
  simp only [List.length_replicate]
  decide

theorem witness_LengthFieldIsExact : (2 ^ 29 - 1 : BitVec 61).toNat < 2 ^ 29 := by decide

theorem witness_HashLineExpands : (∀ c ∈ [0, 65535], c ≤ 65535) ∧ (∃ c ∈ [0x61, 65536], 65535 < c) := by decide

/-- A state in the middle of a message meets the invariant, and a command is to come. -/
theorem witness_StepKeepsTheInvariant :
    Inv (oneByte.offerWord 0x30000000) ∧ ∃ t, step (oneByte.offerWord 0x30000000) = .next t :=
  ⟨⟨⟨by decide, by decide, by decide, by decide, by decide⟩, ⟨by decide +kernel, by decide⟩⟩, ⟨_, rfl⟩⟩

theorem absorbed_oneByte : Absorbed oneByte [0x61] :=
  ⟨by decide, by decide, by decide +kernel, by decide +kernel, by decide +kernel⟩

/-- Nothing taken in, and one byte. -/
theorem witness_AbsorbingHoldsTheMessageSoFar :
    Absorbed { at_ .absorbing 0 with H := Config.H0 } [] ∧ Absorbed oneByte [0x61] ∧ (255 : Element).toNat ≤ 255 ∧
    [(0x61 : Byte)].length < 2 ^ 61 - 1 :=
  ⟨⟨by decide, by decide, by decide +kernel, by decide +kernel, by decide +kernel⟩, absorbed_oneByte, by decide, by decide⟩

theorem witness_FinalLeavesTheHash : Absorbed oneByte [0x61] := absorbed_oneByte

/-- A state before a run: the given phase, and inputs still to come. -/
def before (p : Phase) (inbox : List HostInput) : State := { at_ p 9 with inbox := inbox }

theorem before_inbox (p : Phase) (inbox : List HostInput) : (before p inbox).inbox = inbox := rfl

theorem witness_HostSequenceComputesTheDigest :
    ∃ (s : State) (C : List Element) (rest : List HostInput), (∀ c ∈ C, c.toNat ≤ 255) ∧ C.length ≤ 2 ^ 61 - 1 ∧
      s.inbox = sendCommands (hashCommands C) ++ rest :=
  ⟨before .failed _, [0, 255], [.reset], by simp, by simp, before_inbox _ _⟩

theorem witness_HostSequenceRejectsAnInvalidElement :
    ∃ (s : State) (A D : List Element) (c : Element) (rest : List HostInput), (∀ a ∈ A, a.toNat ≤ 255) ∧ 255 < c.toNat ∧
      (A ++ c :: D).length ≤ 2 ^ 61 - 1 ∧ s.inbox = sendCommands (hashCommands (A ++ c :: D)) ++ rest :=
  ⟨before .idle _, [0x61], [0x62], 256, [], by simp, by simp, by simp, before_inbox _ _⟩

/-- The empty message, and one of a byte. -/
theorem witness_StreamingCommandsCompressThePaddedBlocks :
    (∃ (s : State) (rest : List HostInput), s.inbox = sendCommands (messageCommands []) ++ rest) ∧
    ∃ (s : State) (C : List Element) (rest : List HostInput), C ≠ [] ∧ (∀ c ∈ C, c.toNat ≤ 255) ∧ C.length ≤ 2 ^ 61 - 1 ∧
      s.inbox = sendCommands (messageCommands C) ++ rest :=
  ⟨⟨before .idle _, [], before_inbox _ _⟩, before .done _, [255], [], by simp, by simp, by simp, before_inbox _ _⟩

/-- Two different states that a host cannot tell apart: idle, with another `H`, `LEN` and `W`. -/
theorem witness_StepKeepsStatesIndistinguishable :
    SameToHost State.reset { at_ .idle 5 with H := abcDigest, W := Vector.replicate 64 1 } ∧
    State.reset ≠ { at_ .idle 5 with H := abcDigest, W := Vector.replicate 64 1 } :=
  ⟨⟨rfl, rfl, rfl, rfl, rfl, by decide, by decide⟩, by decide +kernel⟩

theorem witness_NothingBeforeInitReachesTheResponses :
    ∃ (s t : State) (rest : List HostInput), s.inbox = .command (encode .init) :: rest ∧ t.inbox = s.inbox ∧ s ≠ t :=
  ⟨State.reset.offerWord (encode .init), abcDone.offerWord (encode .init), [], rfl, rfl, by decide +kernel⟩

/-! The pins -/

/-- The core ready, nothing offered. -/
def readyPins : Pins.PinState := ⟨State.reset, .ready, none, 3⟩

/-- A response offered and not taken yet. -/
def respondingPins : Pins.PinState := ⟨{ State.reset with outbox := [⟨false, 7⟩] }, .responding, none, 9⟩

/-- A host that offers `INIT` and takes responses. -/
def offersInit : Pins.PinsIn := ⟨false, true, 0x10000000, true⟩

theorem witness_PinsHaveNoMeaningBeforeReset :
    (Pins.PinState.powerOn State.reset).ctl = .unreset ∧ offersInit.rst = false := by decide

theorem witness_PinResetOverridesEverything : (Pins.PinsIn.mk true true 0x10000000 true).rst = true := by decide

/-- An accepted command, a command in flight, and a response the host does not take yet. -/
theorem witness_PinHandshakeTakesOneCommandAtATime :
    (Pins.PinsInv readyPins ∧ readyPins.hostKeepsOffer offersInit = true ∧ readyPins.accepts offersInit = true) ∧
    (Pins.PinsInv respondingPins ∧ respondingPins.ctl.inFlight = true) ∧
    (respondingPins.hostKeepsOffer ⟨false, false, 0, false⟩ = true ∧ respondingPins.ctl = .responding) :=
  ⟨⟨⟨by decide, by decide⟩, by decide, by decide⟩, ⟨⟨by decide, by decide⟩, by decide⟩, by decide, by decide⟩

theorem witness_EdgeKeepsThePinInvariant :
    ((∃ q, Pins.edge readyPins offersInit = .next q) ∧ Pins.PinsInv readyPins) ∧
    (∃ q, Pins.edge (.powerOn State.reset) ⟨true, false, 0, false⟩ = .next q) :=
  ⟨⟨⟨_, rfl⟩, by decide, by decide⟩, ⟨_, rfl⟩⟩

/-- An accepted command after nothing given, and a response transferred. -/
theorem witness_PinsRefineTheTransactions :
    ((∃ q, Pins.run readyPins [offersInit] = .next q) ∧ readyPins.core.outbox = [] ++ Pins.pendingResponses readyPins) ∧
    ((∃ q, Pins.run respondingPins [offersInit] = .next q) ∧
      respondingPins.core.outbox = [] ++ Pins.pendingResponses respondingPins) :=
  ⟨⟨⟨_, rfl⟩, by decide⟩, ⟨_, rfl⟩, by decide⟩

theorem witness_EveryAcceptedCommandIsAnswered :
    (Pins.PinsIn.mk true true 0x10000000 true).rst = true ∧
    (readyPins.hostKeepsOffer offersInit = true ∧ readyPins.accepts offersInit = true) ∧
    (respondingPins.hostKeepsOffer offersInit = true ∧ respondingPins.transfers offersInit = true) := by decide

/-- A host that behaves: it offers nothing more and takes the response. -/
theorem witness_HostBehaves : Pins.HostBehaves respondingPins [⟨false, false, 0, true⟩] :=
  ⟨rfl, by decide, trivial⟩

end Sys2Proof.Tests
end

section
/-! SUPPORT. The word primitives of 00_scope.md R11, each by the one fact that defines it, and the obligation they settle. -/

namespace Sys2Proof.Proofs.WordPrimitives

open Sys2Proof Sys2Proof.Machine

/-- The two pieces of `{ u[n-1:0], u[31:n] }` (00_scope.md R11): below `32 - n` the index moves up by `n`, from there it wraps to
the low bits. -/
theorem getLsbD_rotr (u : Word) {n i : Nat} (hn : n < 32) (hi : i < 32) :
    (rotr u n).getLsbD i = u.getLsbD ((i + n) % 32) := by
  rw [rotr_eq u n hn, BitVec.getLsbD_rotateRight, Nat.mod_eq_of_lt hn]
  by_cases hlow : i < 32 - n
  · have hstay : (i + n) % 32 = n + i := by omega
    simp [hlow, hstay]
  · have hwrap : (i + n) % 32 = i - (32 - n) := by omega
    simp [hlow, hwrap, hi]

/-- The logical shift is the quotient by the power of two, so zeros enter from the top. -/
theorem toNat_shr (u : Word) (n : Nat) : (shr u n).toNat = u.toNat / 2 ^ n := by
  rw [shr, BitVec.toNat_ushiftRight, Nat.shiftRight_eq_div_pow]

/-- The sum wraps at `2 ^ 32`. -/
theorem toNat_add32 (u v : Word) : (add32 u v).toNat = (u.toNat + v.toNat) % 2 ^ 32 := by
  rw [add32_eq, BitVec.toNat_add]

/-- Settles O31: the three primitives, each by its own lemma. -/
theorem wordPrimitivesAreAsDefined : Obligations.WordPrimitivesAreAsDefined := by
  intro u v n _ hn
  exact ⟨fun _ hi => getLsbD_rotr u hn hi, toNat_shr u n, toNat_add32 u v⟩

end Sys2Proof.Proofs.WordPrimitives
end

section
/-! SUPPORT. PROCBLK as the pure function: the loops of SCHED, ROUND and FOLD, each by an invariant over its passes, are `expand`,
`workingAfter` and `addWords` (42_scheduler.md R101, 43_compression.md R108 to R111). -/

namespace Sys2Proof.Proofs.Procblk

open Sys2Proof Sys2Proof.Machine

/-- The rule of the counted loop: a claim that holds before pass 0 and that pass `t` takes to the next number holds after all. -/
theorem forUpTo_induct {α : Type} (P : Nat → α → Prop) (n : Nat) (f : Fin n → α → α) (a : α) (start : P 0 a)
    (pass : ∀ (t : Fin n) (b : α), P t.val b → P (t.val + 1) (f t b)) : P n (forUpTo n f a) := by
  induction n with
  | zero => exact start
  | succ n ih => exact pass (Fin.last n) _ (ih (fun t => f t.castSucc) (fun t => pass t.castSucc))

/-! ### SCHED -/

theorem expand_getElem (block : Block) (i : Nat) (hi : i < 64) : (expand block)[i] = (scheduleWords block 48).getD i 0 := by
  have inside : i < (scheduleWords block 48).length := by rw [scheduleWords_length]; omega
  simp [expand, List.getD_eq_getElem?_getD, List.getElem?_eq_getElem inside]

theorem copyBlock_getElem (M : Block) (W : Schedule) (i : Nat) (hi : i < 16) : (copyBlock M W)[i] = M[i] := by
  rw [copyBlock]
  exact (forUpTo_set_getElem 16 (by omega) (fun t => M[t]) W i (by omega)).trans (by simp [hi])

/-- One pass more appends one word. -/
theorem scheduleWords_succ_getD (block : Block) (k i : Nat) :
    (scheduleWords block (k + 1)).getD i 0 =
      if i < 16 + k then (scheduleWords block k).getD i 0
      else if i = 16 + k then
        scheduleSum ((scheduleWords block k).getD (14 + k) 0) ((scheduleWords block k).getD (9 + k) 0)
          ((scheduleWords block k).getD (1 + k) 0) ((scheduleWords block k).getD k 0)
      else 0 := by
  have hlen := scheduleWords_length block k
  simp only [scheduleWords]
  split
  · exact List.getD_append _ _ _ _ (by omega)
  · rw [List.getD_append_right _ _ _ _ (by omega), hlen]
    split
    · next h => simp [h]
    · exact List.getD_eq_default _ _ (by simp; omega)

/-- The first `16 + k` words of the schedule memory are those of the pure schedule. -/
def ScheduledUpTo (block : Block) (k : Nat) (W : Schedule) : Prop :=
  ∀ (i : Nat) (h : i < 64), i < 16 + k → W[i] = (scheduleWords block k).getD i 0

theorem scheduledUpTo_copyBlock (M : Block) (W : Schedule) : ScheduledUpTo M 0 (copyBlock M W) := by
  intro i _ hi
  simp [copyBlock_getElem M W i (by omega), scheduleWords, List.getD_eq_getElem?_getD, Vector.getElem?_toList,
    Vector.getElem?_eq_getElem (show i < 16 by omega)]

theorem scheduledUpTo_succ (block : Block) (k : Nat) (hk : k < 48) (W : Schedule) (h : ScheduledUpTo block k W) :
    ScheduledUpTo block (k + 1)
      (W.set (16 + k) (scheduleSum W[14 + k] W[9 + k] W[1 + k] W[k])) := by
  intro i hi hik
  rw [scheduleWords_succ_getD, Vector.getElem_set]
  by_cases hnew : 16 + k = i
  · rw [if_pos hnew, if_neg (by omega), if_pos hnew.symm, h _ _ (by omega), h _ _ (by omega), h _ _ (by omega),
      h _ _ (by omega)]
  · rw [if_neg hnew, if_pos (by omega), h i hi (by omega)]

/-- SCHED's two loops fill the schedule memory with the pure schedule, whatever it held. -/
theorem extendSchedule_copyBlock (M : Block) (W : Schedule) : extendSchedule (copyBlock M W) = expand M := by
  apply Vector.ext
  intro i hi
  rw [expand_getElem, extendSchedule]
  exact forUpTo_induct (ScheduledUpTo M) 48 _ _ (scheduledUpTo_copyBlock M W)
    (fun t V h => scheduledUpTo_succ M t.val t.isLt V h) i hi (by omega)

/-! ### ROUND and FOLD -/

theorem roundLoop_eq_workingAfter (W : Schedule) (x : Words8) : roundLoop W x = workingAfter x W Config.K := by
  rw [roundLoop, workingAfter]
  refine forUpTo_induct (fun t v => v = roundsFrom x W Config.K t) 64 (roundStep W) x rfl ?_
  intro t v hv
  simp [hv, roundsFrom, roundStep, List.getD_eq_getElem?_getD]

theorem addWords_getElem (S v : Words8) (i : Nat) (hi : i < 8) : (addWords S v)[i] = add32 S[i] v[i] := by
  interval_cases i <;> rfl

/-- The first `k` words have the working registers added, the others are as before. -/
def FoldedUpTo (x H : Words8) (k : Nat) (V : Words8) : Prop :=
  ∀ (i : Nat) (h : i < 8), V[i] = if i < k then add32 H[i] x[i] else H[i]

theorem foldedUpTo_succ (x H : Words8) (k : Nat) (hk : k < 8) (V : Words8) (h : FoldedUpTo x H k V) :
    FoldedUpTo x H (k + 1) (V.set k (add32 V[k] x[k])) := by
  intro i hi
  rw [Vector.getElem_set]
  by_cases hnew : k = i
  · subst hnew
    rw [if_pos rfl, if_pos (by omega), h k hk, if_neg (by omega)]
  · rw [if_neg hnew, h i hi]
    simp only [show i < k + 1 ↔ i < k by omega]

theorem foldWords_eq_addWords (x H : Words8) : foldWords x H = addWords H x := by
  apply Vector.ext
  intro i hi
  rw [foldWords, addWords_getElem]
  have folded := forUpTo_induct (FoldedUpTo x H) 8 _ H (fun i _ => by simp)
    (fun t V h => foldedUpTo_succ x H t.val t.isLt V h) i hi
  rw [if_pos hi] at folded
  exact folded

/-! ### PROCBLK -/

/-- PROCBLK compresses the buffer into `H` and clears it (43_compression.md R109). -/
theorem procblk_eq (s : State) : s.procblk = { s with
    W := expand s.M, x := workingAfter s.H (expand s.M) Config.K, H := foldBlock s.H s.M, M := Vector.replicate 16 0 } := by
  simp only [State.procblk, State.sched, State.loadWorking, State.rounds, State.fold, State.clearBlock, foldBlock, compress,
    extendSchedule_copyBlock, copyWords_eq, roundLoop_eq_workingAfter, foldWords_eq_addWords, zeroWords_eq]

@[simp] theorem procblk_H (s : State) : s.procblk.H = foldBlock s.H s.M := by rw [procblk_eq]

@[simp] theorem procblk_M (s : State) : s.procblk.M = Vector.replicate 16 0 := by rw [procblk_eq]

end Sys2Proof.Proofs.Procblk
end

section
/-! SUPPORT. The byte view of a block: a block is its 64 bytes, and what each write of the block buffer does to them
(10_state.md R24, 41_preprocessor.md R83, R88). -/

namespace Sys2Proof.Proofs.BlockBytes

open Sys2Proof Sys2Proof.Machine

/-- Every lane lies inside its word. -/
theorem lane_le (q : Fin 64) : laneShift q + 8 ≤ 32 := by unfold laneShift; omega

theorem getLsbD_byteAt (M : Block) (q : Fin 64) (i : Nat) :
    (byteAt M q).getLsbD i = (decide (i < 8) && M[byteWord q].getLsbD (laneShift q + i)) := by
  simp [byteAt, BitVec.getLsbD_extractLsb']

/-- Bit `i` of word `k` is a bit of the byte in lane `3 - i / 8` of that word. -/
theorem getLsbD_word_eq_byteAt (M : Block) (k i : Nat) (hk : k < 16) (hi : i < 32) :
    M[k].getLsbD i = (byteAt M ⟨4 * k + (3 - i / 8), by omega⟩).getLsbD (i % 8) := by
  have hword : (4 * k + (3 - i / 8)) / 4 = k := by omega
  have hbit : 24 - 8 * ((4 * k + (3 - i / 8)) % 4) + i % 8 = i := by omega
  have hbyte : i % 8 < 8 := Nat.mod_lt _ (by decide)
  rw [getLsbD_byteAt]
  simp only [byteWord, laneShift, Fin.getElem_fin, hword, hbit, hbyte, decide_true, Bool.true_and]

/-- Two blocks with the same bytes are the same block. -/
theorem block_ext {M N : Block} (h : ∀ q, byteAt M q = byteAt N q) : M = N := by
  apply Vector.ext
  intro k hk
  apply BitVec.eq_of_getLsbD_eq
  intro i hi
  rw [getLsbD_word_eq_byteAt M k i hk hi, getLsbD_word_eq_byteAt N k i hk hi, h]

@[simp] theorem byteAt_zero (q : Fin 64) : byteAt (Vector.replicate 16 0) q = 0 := by
  simp [byteAt]

/-- Storing a word replaces its four bytes and no other. -/
theorem byteAt_set (M : Block) (k : Nat) (hk : k < 16) (w : Word) (q : Fin 64) :
    byteAt (M.set k w) q = if q.val / 4 = k then w.extractLsb' (laneShift q) 8 else byteAt M q := by
  simp only [byteAt, byteWord, Fin.getElem_fin, Vector.getElem_set, eq_comm (a := k)]
  split <;> rfl

/-- A byte moved to the lane of `p` shows in that lane alone, among the bytes of the same word. -/
theorem extractLsb'_lane (v : Byte) (p q : Fin 64) (sameWord : q.val / 4 = p.val / 4) :
    (v.setWidth 32 <<< laneShift p).extractLsb' (laneShift q) 8 = if q = p then v else 0 := by
  ext i hi
  simp only [BitVec.getElem_extractLsb', BitVec.getLsbD_shiftLeft, BitVec.getLsbD_setWidth]
  by_cases hqp : q = p
  · subst hqp
    have : laneShift q + i < 32 := by unfold laneShift; omega
    simp [this, show i < 32 by omega, BitVec.getLsbD_eq_getElem hi]
  · have otherLane : q.val % 4 ≠ p.val % 4 := fun h => hqp (Fin.ext (by omega))
    have apart : laneShift q + i < laneShift p ∨ 8 ≤ laneShift q + i - laneShift p := by unfold laneShift; omega
    rcases apart with hlow | hhigh
    · simp [hqp, hlow]
    · simp [hqp, BitVec.getLsbD_of_ge v _ hhigh]

/-- ORing a byte into its lane of a word changes the byte at that position only. -/
theorem byteAt_set_or (M : Block) (v : Byte) (p q : Fin 64) :
    byteAt (M.set (byteWord p) (M[byteWord p] ||| (v.setWidth 32 <<< laneShift p))) q =
      if q = p then byteAt M q ||| v else byteAt M q := by
  rw [byteAt_set]
  by_cases sameWord : q.val / 4 = p.val / 4
  · have hword : byteWord p = byteWord q := Fin.ext sameWord.symm
    rw [if_pos (show q.val / 4 = (byteWord p).val from sameWord), BitVec.extractLsb'_or, extractLsb'_lane v p q sameWord]
    simp only [byteAt, hword]
    split
    · rfl
    · exact BitVec.or_zero
  · rw [if_neg (show ¬ q.val / 4 = (byteWord p).val from sameWord), if_neg (fun h => sameWord (by rw [h]))]

/-- BYTEINS ORs its byte into position `LEN mod 64` and leaves every other byte (41_preprocessor.md R83). -/
theorem byteAt_byteIns (s : State) (v : Byte) (q : Fin 64) :
    byteAt (s.byteIns v).M q = if q = bytePos s.LEN then byteAt s.M q ||| v else byteAt s.M q :=
  byteAt_set_or s.M v (bytePos s.LEN) q

/-- Byte `i` of the length field is what `M[14]` and `M[15]` hold at position `56 + i` (41_preprocessor.md R80, R88). -/
theorem lengthBytes_getD (L : BitVec 64) (i : Nat) (hi : i < 8) :
    (lengthBytes L).getD i 0 = L.extractLsb' (56 - 8 * i) 8 := by
  interval_cases i <;> rfl

/-- A field of a field is a field. -/
theorem extractLsb'_extractLsb' {w : Nat} (x : BitVec w) (start start' len len' : Nat) (h : start' + len' ≤ len) :
    (x.extractLsb' start len).extractLsb' start' len' = x.extractLsb' (start + start') len' := by
  ext i hi
  simp [Nat.add_assoc, show start' + i < len by omega]

/-- FINAL's write of the length: the last eight bytes of the buffer are the length field, the others stay. -/
theorem byteAt_writeLength (s : State) (L : BitVec 64) (q : Fin 64) :
    byteAt (s.writeLength L).M q = if q.val < 56 then byteAt s.M q else (lengthBytes L).getD (q.val - 56) 0 := by
  rw [State.writeLength_M, byteAt_set, byteAt_set]
  by_cases hlow : q.val < 56
  · rw [if_pos hlow, if_neg (by omega), if_neg (by omega)]
  · rw [if_neg hlow, lengthBytes_getD L _ (by omega)]
    by_cases hlast : q.val / 4 = 15
    · have hbit : 0 + laneShift q = 56 - 8 * (q.val - 56) := by unfold laneShift; omega
      rw [if_pos hlast, lengthLow, extractLsb'_extractLsb' _ _ _ _ _ (lane_le q), hbit]
    · have hbit : 32 + laneShift q = 56 - 8 * (q.val - 56) := by unfold laneShift; omega
      rw [if_neg hlast, if_pos (by omega), lengthHigh, extractLsb'_extractLsb' _ _ _ _ _ (lane_le q), hbit]

end Sys2Proof.Proofs.BlockBytes
end

section
/-! SUPPORT. Packing bytes into blocks (41_preprocessor.md R80, 10_state.md R39): the bytes of a packed block, and the complete blocks
of a sequence that grows at its end. -/

namespace Sys2Proof.Proofs.Packing

open Sys2Proof Sys2Proof.Machine Sys2Proof.Proofs.BlockBytes

theorem packBlock_getElem (P : List Byte) (j k : Nat) (hk : k < 16) : (packBlock P j)[k] = packWord P (16 * j + k) := by
  interval_cases k <;> rfl

/-- Lane 0 of a packed word is its most significant byte (20_memory.md R42). -/
theorem packWord_lane (P : List Byte) (k r : Nat) (hr : r < 4) :
    (packWord P k).extractLsb' (24 - 8 * r) 8 = P.getD (4 * k + r) 0 := by
  unfold packWord
  interval_cases r
  · rw [BitVec.extractLsb'_append_eq_of_le (by omega), BitVec.extractLsb'_append_eq_of_le (by omega),
      BitVec.extractLsb'_append_eq_of_le (by omega), BitVec.extractLsb'_eq_self, Nat.add_zero]
  · rw [BitVec.extractLsb'_append_eq_of_le (by omega), BitVec.extractLsb'_append_eq_of_le (by omega),
      BitVec.extractLsb'_append_eq_of_add_le (by omega), BitVec.extractLsb'_eq_self]
  · rw [BitVec.extractLsb'_append_eq_of_le (by omega), BitVec.extractLsb'_append_eq_of_add_le (by omega),
      BitVec.extractLsb'_eq_self]
  · rw [BitVec.extractLsb'_append_eq_of_add_le (by omega), BitVec.extractLsb'_eq_self]

/-- Byte `q` of block `j` is byte `64 j + q` of the sequence, or zero past its end. -/
theorem byteAt_packBlock (P : List Byte) (j : Nat) (q : Fin 64) : byteAt (packBlock P j) q = P.getD (64 * j + q.val) 0 := by
  rw [byteAt, Fin.getElem_fin, packBlock_getElem]
  have hindex : 4 * (16 * j + q.val / 4) + q.val % 4 = 64 * j + q.val := by omega
  rw [← hindex]
  exact packWord_lane P _ _ (by omega)

/-- Past the end of the sequence a block is all zero. -/
theorem packBlock_of_length_le (P : List Byte) (j : Nat) (h : P.length ≤ 64 * j) : packBlock P j = Vector.replicate 16 0 := by
  apply block_ext
  intro q
  rw [byteAt_packBlock, byteAt_zero, List.getD_eq_default _ _ (by omega)]

/-- A complete block does not change when the sequence grows. -/
theorem packBlock_append (P Q : List Byte) (j : Nat) (h : 64 * (j + 1) ≤ P.length) : packBlock (P ++ Q) j = packBlock P j := by
  apply block_ext
  intro q
  rw [byteAt_packBlock, byteAt_packBlock, List.getD_append _ _ _ _ (by omega)]

/-- The complete blocks of a grown sequence: the old ones, then those the new end completes. -/
theorem completeBlocks_append (P Q : List Byte) :
    completeBlocks (P ++ Q) = completeBlocks P ++
      (List.range ((P ++ Q).length / 64 - P.length / 64)).map (fun i => packBlock (P ++ Q) (P.length / 64 + i)) := by
  have grown : (P ++ Q).length / 64 = P.length / 64 + ((P ++ Q).length / 64 - P.length / 64) := by
    rw [List.length_append]; omega
  have old : (List.range (P.length / 64)).map (packBlock (P ++ Q)) = (List.range (P.length / 64)).map (packBlock P) := by
    apply List.map_congr_left
    intro j hj
    rw [List.mem_range] at hj
    exact packBlock_append P Q j (by omega)
  rw [completeBlocks, grown, List.range_add, List.map_append, old, List.map_map, ← grown]
  rfl

end Sys2Proof.Proofs.Packing
end

section
/-! SUPPORT. What ABSORB and FINAL leave in `H` and `M`, in terms of the blocks they compress (41_preprocessor.md R84, R88), and the
obligation that ties those blocks to `H`. -/

namespace Sys2Proof.Proofs.Chaining

open Sys2Proof Sys2Proof.Machine Sys2Proof.Proofs.Procblk

/-! ### ABSORB -/

/-- The effect of ABSORB before the 64th byte of a block (41_preprocessor.md R85). -/
theorem absorbByte_of_not_full (s : State) (v : Byte) (h : bytePos s.LEN ≠ 63) :
    s.absorbByte v = { s.byteIns v with LEN := s.LEN + 1 } := by
  rw [State.absorbByte, if_neg h, State.byteIns_LEN]

/-- The effect of ABSORB at the 64th byte of a block (41_preprocessor.md R84, R85). -/
theorem absorbByte_of_full (s : State) (v : Byte) (h : bytePos s.LEN = 63) :
    s.absorbByte v = State.procblk { s.byteIns v with LEN := s.LEN + 1 } := by
  rw [State.absorbByte, if_pos h, State.byteIns_LEN]

theorem absorbByte_M (s : State) (v : Byte) :
    (s.absorbByte v).M = if bytePos s.LEN = 63 then Vector.replicate 16 0 else (s.byteIns v).M := by
  split
  · next full => rw [absorbByte_of_full s v full, procblk_M]
  · next notFull => rw [absorbByte_of_not_full s v notFull]

/-- The blocks an ABSORB that raises nothing compresses: the buffer with its 64th byte. -/
def fullBlocks (s : State) (v : Byte) : List Block := if bytePos s.LEN = 63 then [(s.byteIns v).M] else []

theorem absorbByte_H (s : State) (v : Byte) : (s.absorbByte v).H = (fullBlocks s v).foldl foldBlock s.H := by
  unfold fullBlocks
  split
  · next full => rw [absorbByte_of_full s v full, procblk_H]; rfl
  · next notFull => rw [absorbByte_of_not_full s v notFull]; rfl

/-- `fullBlocks` is what `blocksOfCommand` lists for an ABSORB that raises nothing. -/
theorem blocksOfCommand_absorb (s : State) (c : Element) (phase : s.PHASE = .absorbing) (valid : validElement c = true)
    (room : lengthFull s.LEN = false) : blocksOfCommand (.absorb c) s = fullBlocks s (elementByte c) := by
  simp [blocksOfCommand, fullBlocks, phase, valid, room]

/-! ### FINAL -/

/-- FINAL with room for the length field in the block of the terminator (41_preprocessor.md R88). -/
theorem finish_of_short (s : State) (h : ¬ 56 ≤ (bytePos s.LEN).val) :
    s.finish = { ((s.byteIns 0x80).writeLength (bitLength s.LEN)).procblk with PHASE := .done } := by
  rw [State.finish, if_neg h]

/-- FINAL with the length field in a block of its own (41_preprocessor.md R88). -/
theorem finish_of_long (s : State) (h : 56 ≤ (bytePos s.LEN).val) :
    s.finish = { ((s.byteIns 0x80).procblk.writeLength (bitLength s.LEN)).procblk with PHASE := .done } := by
  rw [State.finish, if_pos h]

theorem finalBlocks_of_short (s : State) (h : ¬ 56 ≤ (bytePos s.LEN).val) :
    finalBlocks s = [((s.byteIns 0x80).writeLength (bitLength s.LEN)).M] := by
  rw [finalBlocks, State.byteIns_LEN, if_neg h]

theorem finalBlocks_of_long (s : State) (h : 56 ≤ (bytePos s.LEN).val) :
    finalBlocks s = [(s.byteIns 0x80).M, ((s.byteIns 0x80).procblk.writeLength (bitLength s.LEN)).M] := by
  rw [finalBlocks, State.byteIns_LEN, if_pos h]

theorem finish_H (s : State) : s.finish.H = (finalBlocks s).foldl foldBlock s.H := by
  by_cases h : 56 ≤ (bytePos s.LEN).val
  · simp only [finish_of_long s h, finalBlocks_of_long s h, List.foldl_cons, List.foldl_nil, procblk_H, State.writeLength_H,
      State.byteIns_H]
  · simp only [finish_of_short s h, finalBlocks_of_short s h, List.foldl_cons, List.foldl_nil, procblk_H, State.writeLength_H,
      State.byteIns_H]

@[simp] theorem finish_M (s : State) : s.finish.M = Vector.replicate 16 0 := by
  by_cases h : 56 ≤ (bytePos s.LEN).val
  · rw [finish_of_long s h, procblk_M]
  · rw [finish_of_short s h, procblk_M]

/-! ### Every command but INIT -/

theorem execAbsorb_folds (c : Element) (s t : State) (h : execAbsorb c s = .next t) :
    t.H = (blocksOfCommand (.absorb c) s).foldl foldBlock s.H := by
  rcases execAbsorb_cases c s t h with ⟨wrongPhase, rfl⟩ | ⟨_, invalid, rfl⟩ | ⟨_, _, full, rfl⟩ | ⟨phase, valid, room, rfl⟩
  · simp [blocksOfCommand, wrongPhase]
  · simp [blocksOfCommand, invalid]
  · simp [blocksOfCommand, full]
  · rw [State.respond_H, absorbByte_H, blocksOfCommand_absorb s c phase valid room]

theorem execFinal_folds (s t : State) (h : execFinal s = .next t) :
    t.H = (blocksOfCommand .final s).foldl foldBlock s.H := by
  rcases execFinal_cases s t h with ⟨wrongPhase, rfl⟩ | ⟨phase, rfl⟩
  · simp [blocksOfCommand, wrongPhase]
  · rw [State.respond_H, finish_H, blocksOfCommand, if_pos phase]

/-- Settles O30, command by command: ABSORB and FINAL fold the blocks of their PROCBLKs, RDHEX and RDSTAT write no register. -/
theorem chainingStateFoldsTheCompressedBlocks : Obligations.ChainingStateFoldsTheCompressedBlocks := by
  intro i s t notInit h
  cases i with
  | init => exact absurd rfl notInit
  | absorb c => exact execAbsorb_folds c s t h
  | final => exact execFinal_folds s t h
  | rdhex k =>
    rcases execRdhex_cases k s t h with ⟨_, rfl⟩ | ⟨_, rfl⟩
    · exact State.takeTrap_H s _
    · exact State.respond_H s _
  | rdstat => rw [execRdstat_eq s t h]; exact State.respond_H s _

end Sys2Proof.Proofs.Chaining
end

section
/-! SUPPORT. What the state represents of the message taken in (10_state.md R39): the block buffer is the packed block the message has
not filled yet, so ABSORB and FINAL are statements about packed blocks. -/

namespace Sys2Proof.Proofs.Message

open Sys2Proof Sys2Proof.Machine Sys2Proof.Proofs.Procblk Sys2Proof.Proofs.BlockBytes Sys2Proof.Proofs.Packing
open Sys2Proof.Proofs.Chaining

/-! ### The representation -/

/-- In ABSORBING the buffer is the packed block that the bytes taken in have begun (10_state.md R39). -/
theorem absorbed_iff (s : State) (B : List Byte) :
    Absorbed s B ↔ s.PHASE = .absorbing ∧ s.LEN.toNat = B.length ∧
      s.H = (completeBlocks B).foldl foldBlock Config.H0 ∧ s.M = packBlock B (B.length / 64) := by
  constructor
  · rintro ⟨phase, len, chained, placed, tailZero⟩
    refine ⟨phase, len, chained, block_ext fun q => ?_⟩
    rw [byteAt_packBlock]
    by_cases hq : q < bytePos s.LEN
    · exact placed q hq
    · have beyond : s.LEN.toNat % 64 ≤ q.val := Nat.not_lt.mp hq
      rw [tailZero q (Fin.not_lt.mp hq), List.getD_eq_default _ _ (by omega)]
  · rintro ⟨phase, len, chained, hM⟩
    refine ⟨phase, len, chained, fun q _ => by rw [hM, byteAt_packBlock], fun q hq => ?_⟩
    have beyond : s.LEN.toNat % 64 ≤ q.val := hq
    rw [hM, byteAt_packBlock, List.getD_eq_default _ _ (by omega)]

theorem bytePos_of_absorbed {s : State} {B : List Byte} (h : Absorbed s B) : (bytePos s.LEN).val = B.length % 64 := by
  rw [← h.len]; rfl

theorem bytePos_eq_63_iff {s : State} {B : List Byte} (h : Absorbed s B) : bytePos s.LEN = 63 ↔ B.length % 64 = 63 := by
  rw [← bytePos_of_absorbed h, Fin.ext_iff]; rfl

/-- A response changes nothing that is represented. -/
theorem absorbed_respond {s : State} {B : List Byte} (h : Absorbed s B) (r : Response) : Absorbed (s.respond r) B :=
  ⟨h.phase, h.len, h.chained, h.placed, h.tailZero⟩

/-- BYTEINS appends its byte to the bytes packed in the buffer. -/
theorem byteIns_M_of_absorbed {s : State} {B : List Byte} (h : Absorbed s B) (v : Byte) :
    (s.byteIns v).M = packBlock (B ++ [v]) (B.length / 64) := by
  obtain ⟨_, _, _, hM⟩ := (absorbed_iff s B).mp h
  have pos := bytePos_of_absorbed h
  apply block_ext
  intro q
  rw [byteAt_byteIns, hM, byteAt_packBlock, byteAt_packBlock]
  rcases Nat.lt_trichotomy q.val (B.length % 64) with before | here | after
  · rw [if_neg (fun e => by rw [e] at before; omega), List.getD_append _ _ _ _ (by omega)]
  · rw [if_pos (Fin.ext (here.trans pos.symm)), List.getD_eq_default _ _ (by omega),
      List.getD_append_right _ _ _ _ (by omega), show 64 * (B.length / 64) + q.val - B.length = 0 by omega]
    exact BitVec.zero_or
  · rw [if_neg (fun e => by rw [e] at after; omega), List.getD_eq_default _ _ (by omega),
      List.getD_eq_default _ _ (by simp; omega)]

/-! ### INIT and ABSORB -/

theorem absorbed_nil_of_execInit {s t : State} (h : execInit s = .next t) : Absorbed t [] := by
  rw [execInit_eq s t h, absorbed_iff]
  exact ⟨rfl, rfl, rfl, (packBlock_of_length_le [] 0 (by simp)).symm⟩

/-- The blocks an ABSORB compresses are those its byte completes. -/
theorem completeBlocks_append_byte {s : State} {B : List Byte} (h : Absorbed s B) (v : Byte) :
    completeBlocks (B ++ [v]) = completeBlocks B ++ fullBlocks s v := by
  rw [completeBlocks_append, fullBlocks]
  congr 1
  by_cases full : B.length % 64 = 63
  · have one : (B ++ [v]).length / 64 - B.length / 64 = 1 := by rw [List.length_append, List.length_singleton]; omega
    rw [if_pos ((bytePos_eq_63_iff h).mpr full), one, byteIns_M_of_absorbed h]
    rfl
  · have none : (B ++ [v]).length / 64 - B.length / 64 = 0 := by rw [List.length_append, List.length_singleton]; omega
    rw [if_neg (fun e => full ((bytePos_eq_63_iff h).mp e)), none]
    rfl

/-- A valid ABSORB takes in one byte more (10_state.md R39). -/
theorem absorbed_absorbByte {s : State} {B : List Byte} (h : Absorbed s B) (v : Byte) (room : B.length < 2 ^ 61 - 1) :
    Absorbed (s.absorbByte v) (B ++ [v]) := by
  obtain ⟨phase, len, chained, _⟩ := (absorbed_iff s B).mp h
  have longer : (B ++ [v]).length = B.length + 1 := by rw [List.length_append, List.length_singleton]
  refine (absorbed_iff _ _).mpr ⟨?_, ?_, ?_, ?_⟩
  · rw [State.absorbByte_PHASE, phase]
  · have fits : s.LEN.toNat + (1 : BitVec 61).toNat < 2 ^ 61 := by rw [len]; change B.length + 1 < 2 ^ 61; omega
    rw [State.absorbByte_LEN, BitVec.toNat_add_of_lt fits, len, longer]; rfl
  · rw [absorbByte_H, completeBlocks_append_byte h, List.foldl_append, chained]
  · rw [absorbByte_M, longer]
    by_cases full : B.length % 64 = 63
    · rw [if_pos ((bytePos_eq_63_iff h).mpr full), packBlock_of_length_le _ _ (by omega)]
    · rw [if_neg (fun e => full ((bytePos_eq_63_iff h).mp e)), byteIns_M_of_absorbed h,
        show (B.length + 1) / 64 = B.length / 64 by omega]

theorem validElement_iff (c : Element) : validElement c = true ↔ c.toNat ≤ 255 := decide_eq_true_iff

theorem lengthFull_iff (LEN : BitVec 61) : lengthFull LEN = true ↔ LEN.toNat = 2 ^ 61 - 1 := decide_eq_true_iff

theorem elementByte_eq_setWidth (c : Element) : elementByte c = c.setWidth 8 := by
  ext i hi
  simp [elementByte]

/-- In ABSORBING, with room for one more byte, ABSORB of a valid element takes it in. -/
theorem execAbsorb_of_valid {s : State} {c : Element} (phase : s.PHASE = .absorbing) (valid : c.toNat ≤ 255)
    (room : s.LEN.toNat < 2 ^ 61 - 1) : execAbsorb c s = .next ((s.absorbByte (c.setWidth 8)).respond (okResponse 0)) := by
  have notFull : ¬ lengthFull s.LEN = true := fun full => Nat.ne_of_lt room ((lengthFull_iff s.LEN).mp full)
  rw [execAbsorb, if_neg (not_not.mpr phase), if_neg (not_not.mpr ((validElement_iff c).mpr valid)), if_neg notFull,
    elementByte_eq_setWidth]

/-- Settles O48: INIT represents the empty message, and each valid ABSORB appends its byte. -/
theorem absorbingHoldsTheMessageSoFar : Obligations.AbsorbingHoldsTheMessageSoFar := by
  refine ⟨fun s => ⟨_, rfl, absorbed_nil_of_execInit rfl⟩, fun s B c h valid room => ?_⟩
  exact ⟨_, execAbsorb_of_valid h.phase valid (by rw [h.len]; exact room), absorbed_respond (absorbed_absorbByte h _ room) _⟩

end Sys2Proof.Proofs.Message
end

section
/-! SUPPORT. FINAL on a state that represents a message: its blocks are the last ones of the padded message (41_preprocessor.md R80,
R88), so `H` becomes the hash (43_compression.md R112). -/

namespace Sys2Proof.Proofs.Final

open Sys2Proof Sys2Proof.Machine Sys2Proof.Proofs.Procblk Sys2Proof.Proofs.BlockBytes Sys2Proof.Proofs.Packing
open Sys2Proof.Proofs.Chaining Sys2Proof.Proofs.Message

/-- The padded bytes of 41_preprocessor.md R80, without the bound on the length. -/
def padded (B : List Byte) : List Byte :=
  B ++ [0x80] ++ List.replicate (zeroCount B.length) 0 ++ lengthBytes (BitVec.ofNat 64 (8 * B.length))

/-- What the padding adds to the message: terminator, zeros, length field. -/
def padding (B : List Byte) : List Byte :=
  [0x80] ++ List.replicate (zeroCount B.length) 0 ++ lengthBytes (BitVec.ofNat 64 (8 * B.length))

theorem padded_eq_append (B : List Byte) : padded B = B ++ padding B := by
  rw [padded, padding, List.append_assoc, List.append_assoc, List.append_assoc]

theorem paddedBytes_eq_padded (B : List Byte) (h : B.length ≤ Config.maxMsgBytes) : paddedBytes B = .ok (padded B) :=
  paddedBytes_of_bounded B h

/-- The zeros leave room for the length field in a whole block, and are less than a block. -/
theorem zeroCount_spec (n : Nat) : (n + 1 + zeroCount n) % 64 = 56 ∧ zeroCount n < 64 := by
  unfold zeroCount
  omega

theorem marked_length (B : List Byte) :
    (B ++ [0x80] ++ List.replicate (zeroCount B.length) (0 : Byte)).length = B.length + 1 + zeroCount B.length := by
  rw [List.length_append, List.length_append, List.length_replicate, List.length_singleton]

theorem padded_length (B : List Byte) : (padded B).length = B.length + 1 + zeroCount B.length + 8 := by
  rw [padded, List.length_append, marked_length]; rfl

/-- Up to the length field the padded message is the message with its terminator, and zeros. -/
theorem padded_getD_before_length (B : List Byte) (i : Nat) (h : i < B.length + 1 + zeroCount B.length) :
    (padded B).getD i 0 = (B ++ [0x80]).getD i 0 := by
  rw [padded, List.getD_append _ _ _ _ (by rw [marked_length]; exact h)]
  by_cases marked : i < (B ++ [(0x80 : Byte)]).length
  · rw [List.getD_append _ _ _ _ marked]
  · rw [List.getD_append_right _ _ _ _ (Nat.not_lt.mp marked), List.getD_eq_default (B ++ [0x80]) _ (Nat.not_lt.mp marked)]
    simp

theorem padded_getD_length (B : List Byte) (i : Nat) :
    (padded B).getD (B.length + 1 + zeroCount B.length + i) 0 = (lengthBytes (BitVec.ofNat 64 (8 * B.length))).getD i 0 := by
  rw [padded, List.getD_append_right _ _ _ _ (by rw [marked_length]; omega), marked_length, Nat.add_sub_cancel_left]

/-- A block before the length field is packed from the message and its terminator. -/
theorem packBlock_padded (B : List Byte) (j : Nat) (h : 64 * (j + 1) ≤ B.length + 1 + zeroCount B.length) :
    packBlock (padded B) j = packBlock (B ++ [0x80]) j := by
  apply block_ext
  intro q
  rw [byteAt_packBlock, byteAt_packBlock, padded_getD_before_length B _ (by omega)]

/-- The last block: the length field over the end of the message. -/
theorem writeLength_M_eq_packBlock (s : State) (B : List Byte) (j : Nat) (last : B.length + 1 + zeroCount B.length = 64 * j + 56)
    (hM : s.M = packBlock (B ++ [0x80]) j) :
    (s.writeLength (BitVec.ofNat 64 (8 * B.length))).M = packBlock (padded B) j := by
  apply block_ext
  intro q
  rw [byteAt_writeLength, hM, byteAt_packBlock, byteAt_packBlock]
  split
  · next before => rw [padded_getD_before_length B _ (by omega)]
  · next inside =>
    have index : 64 * j + q.val = B.length + 1 + zeroCount B.length + (q.val - 56) := by omega
    rw [index, padded_getD_length]

/-- The bit length FINAL computes is the one `pad` appends (41_preprocessor.md R89). -/
theorem bitLength_eq (LEN : BitVec 61) : bitLength LEN = BitVec.ofNat 64 (8 * LEN.toNat) := by
  apply BitVec.eq_of_toNat_eq
  have := LEN.isLt
  simp [bitLength]
  omega

/-- The blocks FINAL compresses are those that the padding adds to the complete blocks of the message. -/
theorem completeBlocks_padded {s : State} {B : List Byte} (h : Absorbed s B) :
    completeBlocks (padded B) = completeBlocks B ++ finalBlocks s := by
  obtain ⟨room, few⟩ := zeroCount_spec B.length
  have total := padded_length B
  rw [padded_eq_append, completeBlocks_append, ← padded_eq_append]
  congr 1
  have marked := byteIns_M_of_absorbed h 0x80
  by_cases long : 56 ≤ B.length % 64
  · have two : (padded B).length / 64 - B.length / 64 = 2 := by omega
    have cleared : (s.byteIns 0x80).procblk.M = packBlock (B ++ [0x80]) (B.length / 64 + 1) := by
      rw [procblk_M, packBlock_of_length_le _ _ (by simp; omega)]
    rw [finalBlocks_of_long s (by rw [bytePos_of_absorbed h]; exact long), bitLength_eq, h.len,
      writeLength_M_eq_packBlock _ B _ (by omega) cleared, marked, ← packBlock_padded B _ (by omega), two]
    rfl
  · have one : (padded B).length / 64 - B.length / 64 = 1 := by omega
    rw [finalBlocks_of_short s (by rw [bytePos_of_absorbed h]; exact long), bitLength_eq, h.len,
      writeLength_M_eq_packBlock _ B _ (by omega) marked, one]
    rfl

/-- A represented message is within the bound of 41_preprocessor.md R94. -/
theorem length_le_of_absorbed {s : State} {B : List Byte} (h : Absorbed s B) : B.length ≤ Config.maxMsgBytes := by
  have := s.LEN.isLt
  rw [h.len] at this
  exact Nat.le_sub_one_of_lt this

/-- The padded blocks of a represented message, as the machine compresses them. -/
theorem pad_of_absorbed {s : State} {B : List Byte} (h : Absorbed s B) : pad B = .ok (completeBlocks B ++ finalBlocks s) :=
  (pad_eq_ok_iff B _).mpr ⟨padded B, paddedBytes_eq_padded B (length_le_of_absorbed h), completeBlocks_padded h⟩

theorem hash_of_absorbed {s : State} {B : List Byte} (h : Absorbed s B) : Machine.hash B = .ok s.finish.H := by
  refine (hash_eq_ok_iff B _).mpr ⟨_, pad_of_absorbed h, ?_⟩
  rw [List.foldl_append, ← h.chained, finish_H]

/-- FINAL turns a represented message into its digest (10_state.md R39). -/
theorem digested_of_absorbed {s : State} {B : List Byte} (h : Absorbed s B) (r : Response) :
    Digested (s.finish.respond r) B where
  phase := rfl
  len := by rw [State.respond_LEN, State.finish_LEN, h.len]
  digest := hash_of_absorbed h
  clear q := by rw [State.respond_M, finish_M, byteAt_zero]

/-- Settles O49. -/
theorem finalLeavesTheHash : Obligations.FinalLeavesTheHash := by
  intro s B h
  exact ⟨_, by rw [exec, execFinal, if_neg (not_not.mpr h.phase)], digested_of_absorbed h _⟩

end Sys2Proof.Proofs.Final
end

section
/-! SUPPORT. The invariant of the machine between commands (10_state.md R28, R29, R39): reset meets it, and every step keeps it. -/

namespace Sys2Proof.Proofs.Invariant

open Sys2Proof Sys2Proof.Machine Sys2Proof.Proofs.BlockBytes Sys2Proof.Proofs.Chaining Sys2Proof.Proofs.Message

/-! ### States that meet it -/

/-- Outside FAILED the invariant asks for a clear record. -/
theorem controlInv_of_clear {s : State} (running : s.PHASE ≠ .failed) (cause : s.CAUSE = 0) (badchar : s.BADCHAR = 0) :
    ControlInv s where
  causeLegal := .inl cause
  causeIffFailed := ⟨fun h => absurd cause h, fun h => absurd h running⟩
  badcharClear _ := badchar
  badcharInvalid h := absurd (cause.symm.trans h) (by decide)
  badcharUncounted h := absurd (cause.symm.trans h) (by decide)

/-- While absorbing nothing is on record. -/
theorem clear_of_absorbing {s : State} (h : ControlInv s) (phase : s.PHASE = .absorbing) : s.CAUSE = 0 ∧ s.BADCHAR = 0 := by
  have cause : s.CAUSE = 0 := by
    by_contra recorded
    rw [h.causeIffFailed.mp recorded] at phase
    exact absurd phase (by decide)
  exact ⟨cause, h.badcharClear cause⟩

/-- The block buffer is free outside ABSORBING and DONE. -/
theorem bufferInv_of_unused {s : State} (notAbsorbing : s.PHASE ≠ .absorbing) (notDone : s.PHASE ≠ .done) : BufferInv s :=
  ⟨fun h => absurd h notAbsorbing, fun h => absurd h notDone⟩

theorem bufferInv_of_cleared {s : State} (cleared : s.M = Vector.replicate 16 0) : BufferInv s :=
  ⟨fun _ q _ => by rw [cleared, byteAt_zero], fun _ q => by rw [cleared, byteAt_zero]⟩

/-- An idle state with a clear record meets the invariant, whatever the other registers hold. -/
theorem inv_of_idle {s : State} (phase : s.PHASE = .idle) (cause : s.CAUSE = 0) (badchar : s.BADCHAR = 0) : Inv s :=
  ⟨controlInv_of_clear (by simp [phase]) cause badchar, bufferInv_of_unused (by simp [phase]) (by simp [phase])⟩

/-! ### What keeps it -/

theorem inv_respond {s : State} (h : Inv s) (r : Response) : Inv (s.respond r) := by
  obtain ⟨⟨legal, iffFailed, clear, invalid, uncounted⟩, ⟨tailZero, doneZero⟩⟩ := h
  exact ⟨⟨legal, iffFailed, clear, invalid, uncounted⟩, ⟨tailZero, doneZero⟩⟩

theorem inv_inbox {s : State} (h : Inv s) (rest : List HostInput) : Inv { s with inbox := rest } := by
  obtain ⟨⟨legal, iffFailed, clear, invalid, uncounted⟩, ⟨tailZero, doneZero⟩⟩ := h
  exact ⟨⟨legal, iffFailed, clear, invalid, uncounted⟩, ⟨tailZero, doneZero⟩⟩

/-- An exception that is not fatal only answers. -/
theorem inv_takeTrap_of_not_fatal {s : State} (h : Inv s) {e : Trap} (notFatal : e.fatal = false) : Inv (s.takeTrap e) := by
  rw [takeTrap_of_not_fatal s e notFatal]
  exact inv_respond h _

theorem inv_takeTrap_invalidByte (s : State) (c : Element) (h : 256 ≤ c.toNat) : Inv (s.takeTrap (.invalidByte c)) where
  control := ⟨.inr (.inl rfl), ⟨fun _ => rfl, fun _ => show (1 : BitVec 3) ≠ 0 by decide⟩,
    fun e => absurd (show (1 : BitVec 3) = 0 from e) (by decide), fun _ => h,
    fun e => absurd (show (1 : BitVec 3) = 4 from e) (by decide)⟩
  buffer := bufferInv_of_unused nofun nofun

theorem inv_takeTrap_lengthOverflow (s : State) (c : Element) (h : c.toNat ≤ 255) : Inv (s.takeTrap (.lengthOverflow c)) where
  control := ⟨.inr (.inr rfl), ⟨fun _ => rfl, fun _ => show (4 : BitVec 3) ≠ 0 by decide⟩,
    fun e => absurd (show (4 : BitVec 3) = 0 from e) (by decide),
    fun e => absurd (show (4 : BitVec 3) = 1 from e) (by decide), fun _ => h⟩
  buffer := bufferInv_of_unused nofun nofun

/-- The position of the next byte moves on by one, from 63 to 0 also where `LEN` wraps. -/
theorem bytePos_succ (LEN : BitVec 61) : (bytePos (LEN + 1)).val = (LEN.toNat + 1) % 64 := by
  change (LEN + 1).toNat % 64 = _
  rw [BitVec.toNat_add]
  exact Nat.mod_mod_of_dvd _ (by decide)

/-- ABSORB keeps the buffer zero behind the bytes placed: it writes position `LEN mod 64` only, or clears the buffer. -/
theorem bufferInv_absorbByte {s : State} (h : BufferInv s) (phase : s.PHASE = .absorbing) (v : Byte) :
    BufferInv (s.absorbByte v) := by
  by_cases full : bytePos s.LEN = 63
  · exact bufferInv_of_cleared (by rw [absorbByte_M, if_pos full])
  · refine ⟨fun _ q hq => ?_, fun done => by rw [State.absorbByte_PHASE, phase] at done; exact Phase.noConfusion done⟩
    have behind : (s.LEN.toNat + 1) % 64 ≤ q.val := by
      rw [← bytePos_succ, ← State.absorbByte_LEN s v]
      exact hq
    have notLast : s.LEN.toNat % 64 ≠ 63 := fun e => full (Fin.ext e)
    have pos : (bytePos s.LEN).val = s.LEN.toNat % 64 := rfl
    rw [absorbByte_M, if_neg full, byteAt_byteIns, if_neg (fun e => by rw [e] at behind; omega)]
    exact h.tailZero phase q (show (bytePos s.LEN).val ≤ q.val by omega)

theorem inv_absorbByte {s : State} (h : Inv s) (phase : s.PHASE = .absorbing) (v : Byte) : Inv (s.absorbByte v) := by
  obtain ⟨cause, badchar⟩ := clear_of_absorbing h.control phase
  refine ⟨controlInv_of_clear ?_ ?_ ?_, bufferInv_absorbByte h.buffer phase v⟩
  · simp [phase]
  · rw [State.absorbByte_CAUSE, cause]
  · rw [State.absorbByte_BADCHAR, badchar]

theorem inv_finish {s : State} (h : Inv s) (phase : s.PHASE = .absorbing) : Inv s.finish := by
  obtain ⟨cause, badchar⟩ := clear_of_absorbing h.control phase
  refine ⟨controlInv_of_clear ?_ ?_ ?_, bufferInv_of_cleared (finish_M s)⟩
  · simp
  · rw [State.finish_CAUSE, cause]
  · rw [State.finish_BADCHAR, badchar]

/-! ### Commands and steps -/

theorem execInit_keeps_inv {s t : State} (h : execInit s = .next t) : Inv t := by
  rw [execInit_eq s t h]
  exact ⟨controlInv_of_clear nofun rfl rfl, bufferInv_of_cleared rfl⟩

theorem execAbsorb_keeps_inv {s t : State} {c : Element} (inv : Inv s) (h : execAbsorb c s = .next t) : Inv t := by
  rcases execAbsorb_cases c s t h with ⟨_, rfl⟩ | ⟨_, invalid, rfl⟩ | ⟨_, valid, _, rfl⟩ | ⟨phase, _, _, rfl⟩
  · exact inv_takeTrap_of_not_fatal inv rfl
  · have large : ¬ c.toNat ≤ 255 := fun small => by simp [(validElement_iff c).mpr small] at invalid
    exact inv_takeTrap_invalidByte s c (Nat.not_le.mp large)
  · exact inv_takeTrap_lengthOverflow s c ((validElement_iff c).mp valid)
  · exact inv_respond (inv_absorbByte inv phase _) _

theorem exec_keeps_inv {i : Instr} {s t : State} (inv : Inv s) (h : exec i s = .next t) : Inv t := by
  cases i with
  | init => exact execInit_keeps_inv h
  | absorb c => exact execAbsorb_keeps_inv inv h
  | final =>
    rcases execFinal_cases s t h with ⟨_, rfl⟩ | ⟨phase, rfl⟩
    · exact inv_takeTrap_of_not_fatal inv rfl
    · exact inv_respond (inv_finish inv phase) _
  | rdhex k =>
    rcases execRdhex_cases k s t h with ⟨_, rfl⟩ | ⟨_, rfl⟩
    · exact inv_takeTrap_of_not_fatal inv rfl
    · exact inv_respond inv _
  | rdstat => rw [execRdstat_eq s t h]; exact inv_respond inv _

theorem runWord_keeps_inv {w : Word} {s t : State} (inv : Inv s) (h : runWord w s = .next t) : Inv t := by
  rcases runWord_cases w s t h with ⟨_, rfl⟩ | ⟨i, _, run⟩
  · exact inv_takeTrap_of_not_fatal inv rfl
  · exact exec_keeps_inv inv run

/-- Settles O47, by the kinds of input a step can take. -/
theorem stepKeepsTheInvariant : Obligations.StepKeepsTheInvariant := by
  intro s t inv h
  rcases step_cases s t h with ⟨_, rfl⟩ | ⟨_, _, rfl⟩ | ⟨_, _, rfl⟩ | ⟨w, rest, _, run⟩
  · exact inv
  · exact inv_of_idle rfl rfl rfl
  · exact inv_of_idle rfl rfl rfl
  · exact runWord_keeps_inv (inv_inbox inv rest) run

/-- Settles O46: reset is idle with a clear record; what log 1 chose for the other registers is not used. -/
theorem resetMeetsTheInvariant : Obligations.ResetMeetsTheInvariant := inv_of_idle rfl rfl rfl

/-- Settles O5. -/
theorem resetStateControlRegisters : Obligations.ResetStateControlRegisters := ⟨rfl, rfl, rfl⟩

end Sys2Proof.Proofs.Invariant
end

section
/-! SUPPORT. The fields of the STATUS view (10_state.md R30). -/

namespace Sys2Proof.Proofs.Status

open Sys2Proof Sys2Proof.Machine

theorem status_phase (s : State) : s.status.extractLsb' 0 2 = s.PHASE.code := by
  rw [State.status, BitVec.extractLsb'_append_eq_of_add_le (by omega), BitVec.extractLsb'_eq_self]

theorem status_cause (s : State) : s.status.extractLsb' 2 3 = s.CAUSE := by
  rw [State.status, BitVec.extractLsb'_append_eq_of_le (by omega), BitVec.extractLsb'_append_eq_of_add_le (by omega),
    BitVec.extractLsb'_eq_self]

theorem status_zero (s : State) : s.status.extractLsb' 5 11 = 0 := by
  rw [State.status, BitVec.extractLsb'_append_eq_of_le (by omega), BitVec.extractLsb'_append_eq_of_le (by omega),
    BitVec.extractLsb'_append_eq_of_add_le (by omega), BitVec.extractLsb'_eq_self]
  rfl

theorem status_badchar (s : State) : s.status.extractLsb' 16 16 = s.BADCHAR := by
  rw [State.status, BitVec.extractLsb'_append_eq_of_le (by omega), BitVec.extractLsb'_append_eq_of_le (by omega),
    BitVec.extractLsb'_append_eq_of_le (by omega), BitVec.extractLsb'_eq_self]

/-- Settles O21, field by field. -/
theorem statusFieldsStandWhereTheSpecSays : Obligations.StatusFieldsStandWhereTheSpecSays := fun s =>
  ⟨status_phase s, status_cause s, status_zero s, status_badchar s⟩

end Sys2Proof.Proofs.Status
end

section
/-! SUPPORT. Two states that a host cannot tell apart (10_state.md R36, R37) answer every input alike and stay so: each command reads
only the registers its phase lets it read. -/

namespace Sys2Proof.Proofs.Indistinguishable

open Sys2Proof Sys2Proof.Machine Sys2Proof.Proofs.Procblk Sys2Proof.Proofs.BlockBytes Sys2Proof.Proofs.Chaining

/-! ### Updates that keep two states alike -/

theorem same_respond {s t : State} (h : SameToHost s t) (r : Response) : SameToHost (s.respond r) (t.respond r) := by
  obtain ⟨phase, cause, badchar, inbox, outbox, absorbing, done⟩ := h
  exact ⟨phase, cause, badchar, inbox, by rw [State.respond_outbox, State.respond_outbox, outbox], absorbing, done⟩

theorem same_inbox {s t : State} (h : SameToHost s t) (rest : List HostInput) :
    SameToHost { s with inbox := rest } { t with inbox := rest } := by
  obtain ⟨phase, cause, badchar, _, outbox, absorbing, done⟩ := h
  exact ⟨phase, cause, badchar, rfl, outbox, absorbing, done⟩

/-- A state that is neither absorbing nor done shows its control registers only. -/
theorem same_of_unread {s t : State} (notAbsorbing : s.PHASE ≠ .absorbing) (notDone : s.PHASE ≠ .done)
    (phase : s.PHASE = t.PHASE) (cause : s.CAUSE = t.CAUSE) (badchar : s.BADCHAR = t.BADCHAR) (inbox : s.inbox = t.inbox)
    (outbox : s.outbox = t.outbox) : SameToHost s t :=
  ⟨phase, cause, badchar, inbox, outbox, fun h => absurd h notAbsorbing, fun h => absurd h notDone⟩

theorem same_recordFatal {s t : State} (h : SameToHost s t) (k : BitVec 3) (c : Element) :
    SameToHost (s.recordFatal k c) (t.recordFatal k c) :=
  same_of_unread nofun nofun rfl rfl rfl h.inbox h.outbox

/-- Every exception records and answers the same on both. -/
theorem same_takeTrap {s t : State} (h : SameToHost s t) (e : Trap) : SameToHost (s.takeTrap e) (t.takeTrap e) := by
  cases e with
  | invalidByte c => exact same_respond (same_recordFatal h 1 c) _
  | illegalCommand => exact same_respond h _
  | sequenceError => exact same_respond h _
  | lengthOverflow c => exact same_respond (same_recordFatal h 4 c) _

theorem same_applyReset {s t : State} (h : SameToHost s t) : SameToHost s.applyReset t.applyReset :=
  same_of_unread nofun nofun rfl rfl rfl h.inbox h.outbox

theorem same_losePower {s t : State} (h : SameToHost s t) : SameToHost s.losePower t.losePower :=
  same_of_unread nofun nofun rfl rfl rfl h.inbox h.outbox

/-! ### The effects of ABSORB and FINAL read `H`, `M` and `LEN` only -/

theorem byteIns_M_congr {s t : State} (hM : s.M = t.M) (hLEN : s.LEN = t.LEN) (v : Byte) : (s.byteIns v).M = (t.byteIns v).M := by
  apply block_ext
  intro q
  rw [byteAt_byteIns, byteAt_byteIns, hM, hLEN]

theorem fullBlocks_congr {s t : State} (hM : s.M = t.M) (hLEN : s.LEN = t.LEN) (v : Byte) : fullBlocks s v = fullBlocks t v := by
  rw [fullBlocks, fullBlocks, byteIns_M_congr hM hLEN, hLEN]

theorem finalBlocks_congr {s t : State} (hM : s.M = t.M) (hLEN : s.LEN = t.LEN) : finalBlocks s = finalBlocks t := by
  by_cases long : 56 ≤ (bytePos s.LEN).val
  · rw [finalBlocks_of_long s long, finalBlocks_of_long t (hLEN ▸ long), byteIns_M_congr hM hLEN, State.writeLength_M,
      State.writeLength_M, procblk_M, procblk_M, hLEN]
  · rw [finalBlocks_of_short s long, finalBlocks_of_short t (hLEN ▸ long), State.writeLength_M, State.writeLength_M,
      byteIns_M_congr hM hLEN, hLEN]

theorem same_absorbByte {s t : State} (h : SameToHost s t) (phase : s.PHASE = .absorbing) (v : Byte) :
    SameToHost (s.absorbByte v) (t.absorbByte v) := by
  obtain ⟨hH, hM, hLEN⟩ := h.absorbing phase
  have alike : (s.absorbByte v).H = (t.absorbByte v).H := by rw [absorbByte_H, absorbByte_H, fullBlocks_congr hM hLEN, hH]
  refine ⟨?_, ?_, ?_, ?_, ?_, fun _ => ⟨alike, ?_, ?_⟩, fun _ => alike⟩
  · simp [h.phase]
  · simp [h.cause]
  · simp [h.badchar]
  · simp [h.inbox]
  · simp [h.outbox]
  · rw [absorbByte_M, absorbByte_M, byteIns_M_congr hM hLEN, hLEN]
  · simp [hLEN]

theorem same_finish {s t : State} (h : SameToHost s t) (phase : s.PHASE = .absorbing) : SameToHost s.finish t.finish := by
  obtain ⟨hH, hM, hLEN⟩ := h.absorbing phase
  refine ⟨rfl, ?_, ?_, ?_, ?_, nofun, fun _ => ?_⟩
  · simp [h.cause]
  · simp [h.badchar]
  · simp [h.inbox]
  · simp [h.outbox]
  · rw [finish_H, finish_H, finalBlocks_congr hM hLEN, hH]

/-! ### Two outcomes at once -/

/-- Both outcomes are next states, and a host cannot tell them apart. -/
def SameNext (o p : Host.Outcome State Fault Refusal) : Prop := ∃ s t, o = .next s ∧ p = .next t ∧ SameToHost s t

theorem sameNext_next {s t : State} (h : SameToHost s t) : SameNext (.next s) (.next t) := ⟨s, t, rfl, rfl, h⟩

/-- INIT overwrites everything that ABSORBING lets a command read. -/
theorem sameNext_execInit {s t : State} (h : SameToHost s t) : SameNext (execInit s) (execInit t) := by
  refine ⟨_, _, rfl, rfl, ?_⟩
  rw [execInit_eq s _ rfl, execInit_eq t _ rfl, h.outbox]
  exact ⟨rfl, rfl, rfl, h.inbox, rfl, fun _ => ⟨rfl, rfl, rfl⟩, fun _ => rfl⟩

theorem sameNext_execAbsorb {s t : State} (h : SameToHost s t) (c : Element) : SameNext (execAbsorb c s) (execAbsorb c t) := by
  unfold execAbsorb
  rw [← h.phase]
  by_cases phase : s.PHASE = .absorbing
  · obtain ⟨_, _, hLEN⟩ := h.absorbing phase
    rw [if_neg (not_not.mpr phase), if_neg (not_not.mpr phase), ← hLEN]
    split
    · exact sameNext_next (same_takeTrap h _)
    · split
      · exact sameNext_next (same_takeTrap h _)
      · exact sameNext_next (same_respond (same_absorbByte h phase _) _)
  · rw [if_pos phase, if_pos phase]
    exact sameNext_next (same_takeTrap h _)

theorem sameNext_execFinal {s t : State} (h : SameToHost s t) : SameNext (execFinal s) (execFinal t) := by
  unfold execFinal
  rw [← h.phase]
  by_cases phase : s.PHASE = .absorbing
  · rw [if_neg (not_not.mpr phase), if_neg (not_not.mpr phase)]
    exact sameNext_next (same_respond (same_finish h phase) _)
  · rw [if_pos phase, if_pos phase]
    exact sameNext_next (same_takeTrap h _)

/-- RDHEX reads `H` in DONE only, where it is the same. -/
theorem sameNext_execRdhex {s t : State} (h : SameToHost s t) (i : BitVec 6) : SameNext (execRdhex i s) (execRdhex i t) := by
  unfold execRdhex
  rw [← h.phase]
  by_cases phase : s.PHASE = .done
  · rw [if_neg (not_not.mpr phase), if_neg (not_not.mpr phase), State.hexnib, State.hexnib, h.done phase]
    exact sameNext_next (same_respond h _)
  · rw [if_pos phase, if_pos phase]
    exact sameNext_next (same_takeTrap h _)

/-- STATUS shows control registers only. -/
theorem sameNext_execRdstat {s t : State} (h : SameToHost s t) : SameNext (execRdstat s) (execRdstat t) := by
  rw [execRdstat, execRdstat, State.status, State.status, h.badchar, h.cause, h.phase]
  exact sameNext_next (same_respond h _)

theorem sameNext_exec {s t : State} (h : SameToHost s t) (i : Instr) : SameNext (exec i s) (exec i t) := by
  cases i with
  | init => exact sameNext_execInit h
  | absorb c => exact sameNext_execAbsorb h c
  | final => exact sameNext_execFinal h
  | rdhex k => exact sameNext_execRdhex h k
  | rdstat => exact sameNext_execRdstat h

theorem sameNext_runWord {s t : State} (h : SameToHost s t) (w : Word) : SameNext (runWord w s) (runWord w t) := by
  unfold runWord
  cases decode w with
  | ok i => exact sameNext_exec h i
  | error why => exact sameNext_next (same_takeTrap h .illegalCommand)

theorem sameNext_runInput {s t : State} (h : SameToHost s t) (a : HostInput) : SameNext (runInput a s) (runInput a t) := by
  cases a with
  | command w => exact sameNext_runWord h w
  | reset => exact sameNext_next (same_applyReset h)
  | removePower => exact sameNext_next (same_losePower h)

/-- Settles O53: the inputs still to come are the same, and each is answered alike. -/
theorem stepKeepsStatesIndistinguishable : Obligations.StepKeepsStatesIndistinguishable := by
  intro s t h
  unfold step runNext
  rw [← h.inbox]
  cases s.inbox with
  | nil => exact sameNext_next h
  | cons a rest => exact sameNext_runInput (same_inbox h rest) a

end Sys2Proof.Proofs.Indistinguishable
end

section
/-! SUPPORT. The decoder and the encoder as inverses on the legal words (30_encoding.md R56 to R59), the opcode map by match and
mask, the illegal words by their fields (R63), and the obligations on words they settle. -/

namespace Sys2Proof.Proofs.Encoding

open Sys2Proof Sys2Proof.Machine

/-! ### The fields of a word -/

/-- A word with a zero must-be-zero field is built from its `op` and its `arg` (30_encoding.md R56). -/
theorem commandWord_fields {w : Word} (zero : zeroField w = 0) : commandWord (opField w) (argField w) = w := by
  have whole : opField w ++ zeroField w ++ argField w = w := by
    rw [opField, zeroField, argField, BitVec.extractLsb'_append_extractLsb'_eq_extractLsb' (by omega),
      BitVec.extractLsb'_append_extractLsb'_eq_extractLsb' (by omega), BitVec.extractLsb'_eq_self]
  rw [zero] at whole
  exact whole

/-- `arg[15:6] = 0` says that the argument is an index of a digest character. -/
theorem highIndexBits_eq_zero_iff (arg : BitVec 16) : arg.extractLsb' 6 10 = 0 ↔ arg.toNat < 64 := by
  rw [← BitVec.toNat_inj, BitVec.extractLsb'_toNat, Nat.shiftRight_eq_div_pow]
  have := arg.isLt
  simp
  omega

theorem setWidth_index {arg : BitVec 16} (small : arg.toNat < 64) : (arg.extractLsb' 0 6).setWidth 16 = arg := by
  apply BitVec.eq_of_toNat_eq
  simp
  omega

@[simp] theorem index_setWidth (i : BitVec 6) : (i.setWidth 16).extractLsb' 0 6 = i := by
  apply BitVec.eq_of_toNat_eq
  have := i.isLt
  simp
  omega

theorem withoutArgument_eq_ok_iff {arg : BitVec 16} {i j : Instr} : withoutArgument arg i = .ok j ↔ arg = 0 ∧ i = j := by
  by_cases clear : arg = 0#16 <;> simp [withoutArgument, clear]

theorem withoutArgument_eq_error_iff {arg : BitVec 16} {i : Instr} : (∃ why, withoutArgument arg i = .error why) ↔ arg ≠ 0 := by
  by_cases clear : arg = 0#16 <;> simp [withoutArgument, clear]

theorem unassigned_of_ne {op : BitVec 4} (h1 : op ≠ 1) (h2 : op ≠ 2) (h3 : op ≠ 3) (h4 : op ≠ 4) (h5 : op ≠ 5) :
    op = 0 ∨ 6 ≤ op.toNat := by
  simp only [ne_eq, ← BitVec.toNat_inj] at *
  simp at *
  omega

/-- The decoder's branches (30_encoding.md R59), each with what the fields of the word are there. -/
theorem decode_cases (w : Word) :
    (zeroField w ≠ 0 ∧ decode w = .error .zeroFieldSet) ∨
    (zeroField w = 0 ∧
      ((opField w = 1 ∧ decode w = withoutArgument (argField w) .init) ∨
        (opField w = 2 ∧ decode w = .ok (.absorb (argField w))) ∨
        (opField w = 3 ∧ decode w = withoutArgument (argField w) .final) ∨
        (opField w = 4 ∧ (argField w).toNat < 64 ∧ decode w = .ok (.rdhex ((argField w).extractLsb' 0 6))) ∨
        (opField w = 4 ∧ 64 ≤ (argField w).toNat ∧ decode w = .error .indexTooLarge) ∨
        (opField w = 5 ∧ decode w = withoutArgument (argField w) .rdstat) ∨
        ((opField w = 0 ∨ 6 ≤ (opField w).toNat) ∧ decode w = .error .unassignedOp))) := by
  unfold decode
  dsimp only
  split
  · next zero => exact .inl ⟨zero, rfl⟩
  · next zero =>
    refine .inr ⟨not_not.mp zero, ?_⟩
    split
    · next op => exact .inl ⟨op, rfl⟩
    · split
      · next op => exact .inr (.inl ⟨op, rfl⟩)
      · split
        · next op => exact .inr (.inr (.inl ⟨op, rfl⟩))
        · split
          · next op =>
            split
            · next high => exact .inr (.inr (.inr (.inl ⟨op, (highIndexBits_eq_zero_iff _).mp high, rfl⟩)))
            · next high =>
              have large := Nat.not_lt.mp (mt (highIndexBits_eq_zero_iff _).mpr high)
              exact .inr (.inr (.inr (.inr (.inl ⟨op, large, rfl⟩))))
          · split
            · next op => exact .inr (.inr (.inr (.inr (.inr (.inl ⟨op, rfl⟩)))))
            · exact .inr (.inr (.inr (.inr (.inr (.inr ⟨unassigned_of_ne ‹_› ‹_› ‹_› ‹_› ‹_›, rfl⟩)))))

/-! ### Decoding and encoding are inverse -/

/-- Settles O8: each command is found by the `op` of its word, and its operand by the word's `arg`. -/
theorem decodeOfEncodeIsTheCommand : Obligations.DecodeOfEncodeIsTheCommand := by
  intro i
  cases i with
  | init => simp [encode, decode, withoutArgument]
  | absorb c => simp [encode, decode]
  | final => simp [encode, decode, withoutArgument]
  | rdhex i =>
    have high : (i.setWidth 16).extractLsb' 6 10 = 0 := (highIndexBits_eq_zero_iff _).mpr (by simp; omega)
    simp [encode, decode, high]
  | rdstat => simp [encode, decode, withoutArgument]

/-- Settles O9: the decoder accepts a word only when its zero field is clear, and its `op` and `arg` then give the word back. -/
theorem encodeOfDecodeIsTheWord : Obligations.EncodeOfDecodeIsTheWord := by
  intro w i h
  obtain ⟨_, branch⟩ | ⟨zero, branches⟩ := decode_cases w
  · simp [branch] at h
  rw [← commandWord_fields zero]
  obtain ⟨op, branch⟩ | ⟨op, branch⟩ | ⟨op, branch⟩ | ⟨op, small, branch⟩ | ⟨_, _, branch⟩ | ⟨op, branch⟩ |
    ⟨_, branch⟩ := branches <;> rw [branch] at h
  · obtain ⟨arg, rfl⟩ := withoutArgument_eq_ok_iff.mp h
    rw [op, arg, encode]
  · cases h
    rw [op, encode]
  · obtain ⟨arg, rfl⟩ := withoutArgument_eq_ok_iff.mp h
    rw [op, arg, encode]
  · cases h
    rw [op, encode, setWidth_index small]
  · cases h
  · obtain ⟨arg, rfl⟩ := withoutArgument_eq_ok_iff.mp h
    rw [op, arg, encode]
  · cases h

/-- What a word decodes to is the command whose word it is. -/
theorem decode_eq_ok_iff {w : Word} {i : Instr} : decode w = .ok i ↔ encode i = w :=
  ⟨encodeOfDecodeIsTheWord w i, fun h => h ▸ decodeOfEncodeIsTheCommand i⟩

/-- Settles O7: the legal words are encodings; the four neighbours are evaluated. -/
theorem writtenOutWordsDecode : Obligations.WrittenOutWordsDecode :=
  ⟨decode_eq_ok_iff.mpr rfl, decode_eq_ok_iff.mpr rfl, decode_eq_ok_iff.mpr rfl, decode_eq_ok_iff.mpr rfl,
    decode_eq_ok_iff.mpr rfl, decode_eq_ok_iff.mpr rfl, by decide, by decide, by decide, by decide⟩

/-! ### The opcode map (30_encoding.md R58) -/

/-- A pattern of fixed high bits `a` and operand bits `b`, by match and mask: the mask keeps the high bits and the operand is the
rest of the word. -/
theorem append_eq_iff {m n : Nat} (a : BitVec m) (b : BitVec n) (w : BitVec (m + n)) :
    a ++ b = w ↔ w &&& (BitVec.allOnes m ++ 0#n) = a ++ 0#n ∧ b = w.extractLsb' 0 n := by
  obtain ⟨hi, lo, rfl⟩ : ∃ (hi : BitVec m) (lo : BitVec n), w = hi ++ lo := ⟨_, _, BitVec.extractLsb'_append_extractLsb'.symm⟩
  rw [BitVec.and_append, BitVec.and_allOnes, BitVec.and_zero, BitVec.append_left_inj, BitVec.extractLsb'_append_eq_right]
  constructor
  · intro h
    have high := congrArg (BitVec.extractLsb' n m) h
    have low := congrArg (BitVec.extractLsb' 0 n) h
    rw [BitVec.extractLsb'_append_eq_left, BitVec.extractLsb'_append_eq_left] at high
    rw [BitVec.extractLsb'_append_eq_right, BitVec.extractLsb'_append_eq_right] at low
    exact ⟨high.symm, low⟩
  · rintro ⟨rfl, rfl⟩
    rfl

theorem encode_absorb_eq_iff {w : Word} {c : Element} :
    encode (.absorb c) = w ↔ w &&& 0xFFFF0000 = 0x20000000 ∧ c = w.extractLsb' 0 16 :=
  append_eq_iff (0x2000 : BitVec 16) c w

theorem encode_rdhex (i : BitVec 6) : encode (.rdhex i) = (0x1000000 : BitVec 26) ++ i := by
  apply BitVec.eq_of_toNat_eq
  simp only [encode, commandWord, BitVec.toNat_append, BitVec.toNat_setWidth_of_le (show 6 ≤ 16 by omega)]
  rfl

theorem encode_rdhex_eq_iff {w : Word} {i : BitVec 6} :
    encode (.rdhex i) = w ↔ w &&& 0xFFFFFFC0 = 0x40000000 ∧ i = w.extractLsb' 0 6 := by
  rw [encode_rdhex]
  exact append_eq_iff (0x1000000 : BitVec 26) i w

/-- A row without operand bits is one word. -/
theorem eq_iff_and_ones {w v : Word} : v = w ↔ w &&& 0xFFFFFFFF = v := by
  rw [show (0xFFFFFFFF : Word) = BitVec.allOnes 32 from rfl, BitVec.and_allOnes, eq_comm]

/-- In a list where no two entries hold at once, at most one holds. -/
theorem countP_le_one_of_pairwise {α : Type} {p : α → Bool} {l : List α} (apart : l.Pairwise (fun a b => ¬ (p a ∧ p b))) :
    l.countP p ≤ 1 := by
  induction apart with
  | nil => simp
  | @cons a l others _ ih =>
    by_cases ha : p a
    · have none : l.countP p = 0 := List.countP_eq_zero.mpr (fun b hb hp => others b hb ⟨ha, hp⟩)
      simp [ha, none]
    · simpa [ha] using ih

/-- Two rows whose match bits differ where both masks are set select no word in common. -/
theorem not_selects_both {q r : OpcodeRow} (differ : q.matchBits &&& r.mask ≠ r.matchBits &&& q.mask) (w : Word) :
    ¬ (q.selects w ∧ r.selects w) := by
  simp only [OpcodeRow.selects, beq_iff_eq]
  rintro ⟨hq, hr⟩
  apply differ
  rw [← hq, ← hr, BitVec.and_assoc, BitVec.and_assoc, BitVec.and_comm q.mask]

/-- Settles O10: a row is the words that encode its commands, and any two rows differ in a bit that both fix. -/
theorem decoderFollowsTheOpcodeTable : Obligations.DecoderFollowsTheOpcodeTable := by
  intro w
  have differ : opcodeTable.Pairwise (fun q r => q.matchBits &&& r.mask ≠ r.matchBits &&& q.mask) := by decide
  exact ⟨decode_eq_ok_iff.trans eq_iff_and_ones, fun _ => decode_eq_ok_iff.trans encode_absorb_eq_iff,
    decode_eq_ok_iff.trans eq_iff_and_ones, fun _ => decode_eq_ok_iff.trans encode_rdhex_eq_iff,
    decode_eq_ok_iff.trans eq_iff_and_ones, countP_le_one_of_pairwise (differ.imp (fun h => not_selects_both h w))⟩

/-! ### How many words are legal -/

/-- The legal words are the encodings of the commands. -/
theorem legalWord_iff_mem_range (w : Word) : legalWord w = true ↔ w ∈ Set.range encode := by
  simp only [legalWord, opcodeTable, List.any_cons, List.any_nil, Bool.or_false, Bool.or_eq_true, OpcodeRow.selects, beq_iff_eq,
    Set.mem_range]
  constructor
  · rintro (h | h | h | h | h)
    · exact ⟨.init, eq_iff_and_ones.mpr h⟩
    · exact ⟨.absorb _, encode_absorb_eq_iff.mpr ⟨h, rfl⟩⟩
    · exact ⟨.final, eq_iff_and_ones.mpr h⟩
    · exact ⟨.rdhex _, encode_rdhex_eq_iff.mpr ⟨h, rfl⟩⟩
    · exact ⟨.rdstat, eq_iff_and_ones.mpr h⟩
  · rintro ⟨i, h⟩
    cases i with
    | init => exact .inl (eq_iff_and_ones.mp h)
    | absorb c => exact .inr (.inl (encode_absorb_eq_iff.mp h).1)
    | final => exact .inr (.inr (.inl (eq_iff_and_ones.mp h)))
    | rdhex k => exact .inr (.inr (.inr (.inl (encode_rdhex_eq_iff.mp h).1)))
    | rdstat => exact .inr (.inr (.inr (.inr (eq_iff_and_ones.mp h))))

/-- The commands by their operands: INIT, FINAL and RDSTAT have none. -/
def instrEquiv : Instr ≃ Fin 3 ⊕ Element ⊕ BitVec 6 where
  toFun
    | .init => .inl 0
    | .absorb c => .inr (.inl c)
    | .final => .inl 1
    | .rdhex i => .inr (.inr i)
    | .rdstat => .inl 2
  invFun
    | .inl 0 => .init
    | .inl 1 => .final
    | .inl 2 => .rdstat
    | .inr (.inl c) => .absorb c
    | .inr (.inr i) => .rdhex i
  left_inv i := by cases i <;> rfl
  right_inv
    | .inl 0 => rfl
    | .inl 1 => rfl
    | .inl 2 => rfl
    | .inr (.inl _) => rfl
    | .inr (.inr _) => rfl

theorem card_bitVec (n : Nat) : Nat.card (BitVec n) = 2 ^ n := Nat.card_eq_of_equiv_fin BitVec.equivFin.toEquiv

theorem card_instr : Nat.card Instr = 65603 := by
  rw [Nat.card_congr instrEquiv, Nat.card_sum, Nat.card_sum, Nat.card_fin, card_bitVec, card_bitVec]
  rfl

theorem encode_injective : Function.Injective encode := fun _ j h =>
  Except.ok.inj ((decode_eq_ok_iff.mpr h).symm.trans (decodeOfEncodeIsTheCommand j))

/-- Settles O12: the encoder is a bijection between the commands and the legal words. -/
theorem legalWordsNumber65603 : Obligations.LegalWordsNumber65603 := by
  unfold Obligations.LegalWordsNumber65603
  simp only [legalWord_iff_mem_range]
  exact (Nat.card_range_of_injective encode_injective).trans card_instr

/-! ### Illegal words (30_encoding.md R63) -/

/-- R63's list: a must-be-zero bit is set, `op` is unassigned, an argument is set where there is none, or an index is too large. -/
def ListedIllegal (w : Word) : Prop :=
  zeroField w ≠ 0 ∨ opField w = 0x0 ∨ 0x6 ≤ (opField w).toNat ∨
    ((opField w = 0x1 ∨ opField w = 0x3 ∨ opField w = 0x5) ∧ argField w ≠ 0) ∨
    (opField w = 0x4 ∧ 64 ≤ (argField w).toNat)

theorem decode_eq_error_iff (w : Word) : (∃ why, decode w = .error why) ↔ ListedIllegal w := by
  unfold ListedIllegal
  obtain ⟨set, branch⟩ | ⟨zero, branches⟩ := decode_cases w
  · exact iff_of_true ⟨_, branch⟩ (.inl set)
  rw [zero]
  obtain ⟨op, branch⟩ | ⟨op, branch⟩ | ⟨op, branch⟩ | ⟨op, small, branch⟩ | ⟨op, large, branch⟩ | ⟨op, branch⟩ |
    ⟨op, branch⟩ := branches
  · simp [branch, withoutArgument_eq_error_iff, op]
  · simp [branch, op]
  · simp [branch, withoutArgument_eq_error_iff, op]
  · simp [branch, op, small]
  · simp [branch, op, large]
  · simp [branch, withoutArgument_eq_error_iff, op]
  · exact iff_of_true ⟨_, branch⟩ (.inr (op.imp id .inl))

theorem runWord_of_error {w : Word} {why : Illegal} (h : decode w = .error why) (s : State) :
    runWord w s = .next { s with outbox := s.outbox ++ [⟨true, 2⟩] } := by
  rw [runWord, h]
  rfl

/-- Settles O11: the tests of the decoder are the list, and no test matters for the effect. -/
theorem illegalWordsAreTheListedOnes : Obligations.IllegalWordsAreTheListedOnes := by
  intro w s
  refine ⟨fun listed => ?_, decode_eq_error_iff w⟩
  obtain ⟨why, h⟩ := (decode_eq_error_iff w).mpr listed
  exact runWord_of_error h s

end Sys2Proof.Proofs.Encoding
end

section
/-! SUPPORT. The pseudo-command HASH (30_encoding.md R71). -/

namespace Sys2Proof.Proofs.HashLine

open Sys2Proof Sys2Proof.Machine

/-- Settles O45: HASH joins the words of its four parts, and refuses what ABSORBS refuses. -/
theorem hashLineExpands : Obligations.HashLineExpands := by
  intro codes
  constructor
  · intro small
    have inRange : codes.all codeInRange = true := List.all_eq_true.mpr (fun c hc => decide_eq_true (small c hc))
    refine ⟨_, _, if_pos inRange, rfl, (if_pos inRange).trans ?_⟩
    simp [hashCommands, messageCommands]
  · rintro ⟨c, hc, large⟩
    have outOfRange : ¬ codes.all codeInRange = true := fun h =>
      Nat.not_le.mpr large (of_decide_eq_true (List.all_eq_true.mp h c hc))
    exact if_neg outOfRange

end Sys2Proof.Proofs.HashLine
end

section
/-! SUPPORT. The one response of each command (30_encoding.md R66): the data of a command that completes, the code of one that does
not; and the obligations that say that a word, and so a step, always completes. -/

namespace Sys2Proof.Proofs.Responses

open Sys2Proof Sys2Proof.Machine

/-- The data a command answers when it completes (30_encoding.md R66). -/
def answerData (s : State) : Instr → Word
  | .init => 0
  | .absorb _ => 0
  | .final => 0
  | .rdhex i => (s.hexnib i).setWidth 32
  | .rdstat => s.status

/-- A next state with one response more and the inputs unchanged. -/
def Answers (s : State) (o : Host.Outcome State Fault Refusal) (r : Response) : Prop :=
  ∃ t, o = .next t ∧ t.outbox = s.outbox ++ [r] ∧ t.inbox = s.inbox

theorem answers_takeTrap (s : State) (e : Trap) : Answers s (.next (s.takeTrap e)) (errResponse e.code) :=
  ⟨_, rfl, State.takeTrap_outbox s e, State.takeTrap_inbox s e⟩

/-- Each command raises an exception or completes with its data. -/
theorem exec_answers (i : Instr) (s : State) :
    (∃ e : Trap, Answers s (exec i s) (errResponse e.code)) ∨ Answers s (exec i s) (okResponse (answerData s i)) := by
  cases i with
  | init => exact .inr ⟨_, rfl, rfl, rfl⟩
  | absorb c =>
    simp only [exec, execAbsorb]
    split
    · exact .inl ⟨_, answers_takeTrap s _⟩
    · split
      · exact .inl ⟨_, answers_takeTrap s _⟩
      · split
        · exact .inl ⟨_, answers_takeTrap s _⟩
        · exact .inr ⟨_, rfl, by simp [answerData], by simp⟩
  | final =>
    simp only [exec, execFinal]
    split
    · exact .inl ⟨_, answers_takeTrap s _⟩
    · exact .inr ⟨_, rfl, by simp [answerData], by simp⟩
  | rdhex k =>
    simp only [exec, execRdhex]
    split
    · exact .inl ⟨_, answers_takeTrap s _⟩
    · exact .inr ⟨_, rfl, rfl, rfl⟩
  | rdstat => exact .inr ⟨_, rfl, rfl, rfl⟩

/-- Each word raises an exception or completes with the data of the command it decodes to. -/
theorem runWord_answers (w : Word) (s : State) :
    (∃ e : Trap, Answers s (runWord w s) (errResponse e.code)) ∨
    ∃ i, decode w = .ok i ∧ Answers s (runWord w s) (okResponse (answerData s i)) := by
  unfold runWord
  cases decode w with
  | ok i => exact (exec_answers i s).imp id (fun h => ⟨i, rfl, h⟩)
  | error why => exact .inl ⟨_, answers_takeTrap s _⟩

theorem runWord_completes (w : Word) (s : State) : ∃ t, runWord w s = .next t := by
  obtain ⟨_, t, h, _⟩ | ⟨_, _, t, h, _⟩ := runWord_answers w s <;> exact ⟨t, h⟩

/-- Settles O6: each input from outside has a next state. -/
theorem stepNeverStops : Obligations.StepNeverStops := by
  intro s
  unfold step runNext
  cases s.inbox with
  | nil => exact ⟨_, rfl⟩
  | cons a rest =>
    cases a with
    | command w => exact runWord_completes w _
    | reset => exact ⟨_, rfl⟩
    | removePower => exact ⟨_, rfl⟩

theorem errResponse_code_bounds (e : Trap) : 1 ≤ (errResponse e.code).data.toNat ∧ (errResponse e.code).data.toNat ≤ 4 := by
  cases e <;> simp [errResponse, Trap.code]

theorem hexCode_range : ∀ v : BitVec 4, (0x30 ≤ (hexCode v).toNat ∧ (hexCode v).toNat ≤ 0x39) ∨
    (0x61 ≤ (hexCode v).toNat ∧ (hexCode v).toNat ≤ 0x66) := by
  decide

/-- Settles O28: the code of an exception, or the data of the one command the word decodes to. -/
theorem everyCommandGivesOneResponse : Obligations.EveryCommandGivesOneResponse := by
  intro w s
  obtain ⟨e, t, run, answered, inputs⟩ | ⟨i, decoded, t, run, answered, inputs⟩ := runWord_answers w s
  · exact ⟨t, _, run, answered, inputs, fun _ => errResponse_code_bounds e, nofun⟩
  · refine ⟨t, _, run, answered, inputs, nofun, fun _ => ?_⟩
    rw [decoded]
    refine ⟨?_, ?_, ?_⟩
    · rintro (h | ⟨c, h⟩ | h) <;> cases h <;> rfl
    · intro h
      cases h
      rfl
    · intro k h
      cases h
      refine ⟨rfl, ?_⟩
      have wide : (okResponse (answerData s (.rdhex k))).data.toNat = (hexCode (nibble s.H k)).toNat :=
        BitVec.toNat_setWidth_of_le (by omega)
      rw [wide]
      exact hexCode_range _

end Sys2Proof.Proofs.Responses
end

