-- ==== Sys2Proof/Proofs/ConstantTable.lean ====
section
/-! SUPPORT. The constant table (40_constant_table.md R74, R75): the list of primes against trial division, and each word of `H0` and
`K` as the fraction of a root, found by writing the root as its whole part and the word. -/

namespace Sys2Proof.Proofs.ConstantTable

open Sys2Proof Sys2Proof.Machine

/-! ### The primes (R74) -/

/-- Trial division by the numbers below `bound`: a number above 1 that none of them divides, save itself. -/
abbrev PassesTrialDivision (bound n : Nat) : Prop := 2 ≤ n ∧ ∀ m < bound, 2 ≤ m → m ∣ n → m = n

theorem prime_iff_passesTrialDivision {bound n : Nat} (small : n < bound * bound) :
    n.Prime ↔ PassesTrialDivision bound n := by
  constructor
  · intro prime
    refine ⟨prime.two_le, fun m _ atLeastTwo divides => ?_⟩
    exact (prime.eq_one_or_self_of_dvd m divides).resolve_left (by omega)
  · rintro ⟨atLeastTwo, noDivisor⟩
    refine Nat.prime_def_le_sqrt.mpr ⟨atLeastTwo, fun m two_le le_sqrt divides => ?_⟩
    have below : m < bound := le_sqrt.trans_lt (Nat.sqrt_lt.mpr small)
    have isItself : m = n := noDivisor m below two_le divides
    have sqrt_lt : n.sqrt < n := Nat.sqrt_lt_self atLeastTwo
    omega

theorem primes_eq_trialDivision :
    Config.primes = (List.range 312).filter fun n => decide (PassesTrialDivision 18 n) := by
  decide +kernel

theorem primes_eq_filter_prime : Config.primes = (List.range 312).filter fun n => decide n.Prime := by
  rw [primes_eq_trialDivision]
  refine List.filter_congr fun n inRange => ?_
  have below : n < 312 := List.mem_range.mp inRange
  exact decide_eq_decide.mpr (prime_iff_passesTrialDivision (by omega)).symm

/-! ### Fractions of roots (R75) -/

/-- `w` is the first 32 bits of the fraction of the `n`-th root of `p`, by R75's integer root. -/
def IsFractionOfRoot (n p : Nat) (w : Word) : Prop :=
  ∃ r : Nat, r ^ n ≤ p * 2 ^ (32 * n) ∧ p * 2 ^ (32 * n) < (r + 1) ^ n ∧ w.toNat = r % 2 ^ 32

/-- The root of `p * 2 ^ (32 * n)` that has the fraction `w`: the whole part of the `n`-th root of `p`, then the 32 bits of `w`. -/
def rootWithFraction (n p : Nat) (w : Word) : Nat := Nat.nthRoot n p * 2 ^ 32 + w.toNat

theorem rootWithFraction_mod (n p : Nat) (w : Word) : rootWithFraction n p w % 2 ^ 32 = w.toNat := by
  rw [rootWithFraction, Nat.mul_add_mod_self_right, Nat.mod_eq_of_lt w.isLt]

/-- The integer root needs no search: testing the one candidate with this whole part and fraction is enough. -/
theorem isFractionOfRoot_of_bounds {n p : Nat} {w : Word}
    (bounds : rootWithFraction n p w ^ n ≤ p * 2 ^ (32 * n) ∧ p * 2 ^ (32 * n) < (rootWithFraction n p w + 1) ^ n) :
    IsFractionOfRoot n p w := by
  obtain ⟨notAbove, nextAbove⟩ := bounds
  exact ⟨rootWithFraction n p w, notAbove, nextAbove, (rootWithFraction_mod n p w).symm⟩

theorem H0_isFractionOfSquareRoot (i : Fin 8) : IsFractionOfRoot 2 (Config.primes.getD i.val 0) Config.H0[i] := by
  apply isFractionOfRoot_of_bounds
  revert i
  decide +kernel

theorem K_isFractionOfCubeRoot (i : Fin 64) : IsFractionOfRoot 3 (Config.primes.getD i.val 0) Config.K[i] := by
  apply isFractionOfRoot_of_bounds
  revert i
  decide +kernel

/-- Settles O40: the primes by trial division, and for each word the one root that can have it as its fraction. -/
theorem constantsAreTheFractionsOfTheRoots : Obligations.ConstantsAreTheFractionsOfTheRoots :=
  ⟨⟨primes_eq_filter_prime, rfl⟩, H0_isFractionOfSquareRoot, K_isFractionOfCubeRoot⟩

end Sys2Proof.Proofs.ConstantTable
end

section
/-! SUPPORT. The padding of a message (41_preprocessor.md section 1): the value of the length field, the number of blocks, and what
stands in the last one. -/

namespace Sys2Proof.Proofs.Padding

open Sys2Proof Sys2Proof.Machine Sys2Proof.Proofs.Packing Sys2Proof.Proofs.Final

/-! ### The length field -/

/-- The bit length of 61-bit lengths does not wrap (41_preprocessor.md R94). -/
theorem bitLength_toNat (LEN : BitVec 61) : (bitLength LEN).toNat = 8 * LEN.toNat := by
  have := LEN.isLt
  rw [bitLength_eq, BitVec.toNat_ofNat, Nat.mod_eq_of_lt (by omega)]

theorem lengthHigh_toNat (L : BitVec 64) : (lengthHigh L).toNat = L.toNat / 2 ^ 32 := by
  have := L.isLt
  rw [lengthHigh, BitVec.extractLsb'_toNat, Nat.shiftRight_eq_div_pow, Nat.mod_eq_of_lt (by omega)]

theorem lengthLow_toNat (L : BitVec 64) : (lengthLow L).toNat = L.toNat % 2 ^ 32 := by
  rw [lengthLow, BitVec.extractLsb'_toNat, Nat.shiftRight_zero]

/-- The two length words, high then low, are the whole field. -/
theorem lengthWords_toNat (L : BitVec 64) : (lengthHigh L).toNat * 2 ^ 32 + (lengthLow L).toNat = L.toNat := by
  rw [lengthHigh_toNat, lengthLow_toNat]
  omega

/-- The eight length bytes, most significant first, are the whole field. -/
theorem lengthBytes_toNat (L : BitVec 64) : (lengthBytes L).foldl (fun v b => 256 * v + b.toNat) 0 = L.toNat := by
  have := L.isLt
  simp only [lengthBytes, List.foldl_cons, List.foldl_nil, BitVec.extractLsb'_toNat, Nat.shiftRight_eq_div_pow]
  omega

/-- Settles O43: `8 * LEN` fits the field, and everything said of the field is arithmetic on it. -/
theorem lengthFieldIsExact : Obligations.LengthFieldIsExact := by
  intro LEN
  have value := bitLength_toNat LEN
  refine ⟨value, ?_, fun short => ?_, (lengthWords_toNat _).trans value⟩
  · apply BitVec.eq_of_toNat_eq
    rw [BitVec.extractLsb'_toNat, Nat.shiftRight_zero, value]
    exact Nat.mul_mod_right 8 _
  · apply BitVec.eq_of_toNat_eq
    rw [lengthHigh_toNat, value]
    exact Nat.div_eq_of_lt (by omega)

/-! ### The blocks -/

theorem completeBlocks_length (P : List Byte) : (completeBlocks P).length = P.length / 64 := by
  rw [completeBlocks, List.length_map, List.length_range]

theorem completeBlocks_getElem (P : List Byte) (j : Nat) (h : j < (completeBlocks P).length) :
    (completeBlocks P)[j] = packBlock P j := by
  simp [completeBlocks]

theorem completeBlocks_getLast? (P : List Byte) (j : Nat) (h : (completeBlocks P).length = j + 1) :
    (completeBlocks P).getLast? = some (packBlock P j) := by
  rw [List.getLast?_eq_getElem?, h, Nat.add_sub_cancel, List.getElem?_eq_getElem (by omega), completeBlocks_getElem]

/-- 41_preprocessor.md R91. -/
theorem completeBlocks_padded_length (B : List Byte) : (completeBlocks (padded B)).length = (B.length + 8) / 64 + 1 := by
  obtain ⟨room, few⟩ := zeroCount_spec B.length
  rw [completeBlocks_length, padded_length]
  omega

/-- The padded message ends with a block: its length field is the end of block `(n + 8) / 64`. -/
theorem lengthField_position (B : List Byte) : B.length + 1 + zeroCount B.length = 64 * ((B.length + 8) / 64) + 56 := by
  obtain ⟨room, few⟩ := zeroCount_spec B.length
  omega

/-- Within the bound of 41_preprocessor.md R94. -/
theorem pad_of_bounded (B : List Byte) (h : B.length ≤ Config.maxMsgBytes) : pad B = .ok (completeBlocks (padded B)) :=
  (pad_eq_ok_iff B _).mpr ⟨padded B, paddedBytes_eq_padded B h, rfl⟩

theorem pad_of_too_long (B : List Byte) (h : Config.maxMsgBytes < B.length) : pad B = .error .messageTooLong := by
  rw [pad, paddedBytes_of_too_long B h]; rfl

theorem pad_length {B : List Byte} {blocks : List Block} (h : pad B = .ok blocks) :
    blocks.length = (B.length + 8) / 64 + 1 := by
  by_cases bounded : B.length ≤ Config.maxMsgBytes
  · rw [← Except.ok.inj ((pad_of_bounded B bounded).symm.trans h), completeBlocks_padded_length]
  · rw [pad_of_too_long B (Nat.not_le.mp bounded)] at h
    cases h

theorem hash_of_too_long (B : List Byte) (h : Config.maxMsgBytes < B.length) : Machine.hash B = .error .messageTooLong := by
  rw [Machine.hash, pad_of_too_long B h]; rfl

/-- The last block ends with the two words of the length field: it is what FINAL's write of them leaves, from any state with the
terminator in its buffer (41_preprocessor.md R80, R88). -/
theorem lastBlock_lengthWords (B : List Byte) (j : Nat) (last : B.length + 1 + zeroCount B.length = 64 * j + 56) :
    (packBlock (padded B) j)[14] = lengthHigh (BitVec.ofNat 64 (8 * B.length)) ∧
    (packBlock (padded B) j)[15] = lengthLow (BitVec.ofNat 64 (8 * B.length)) := by
  rw [← writeLength_M_eq_packBlock { State.reset with M := packBlock (B ++ [0x80]) j } B j last rfl, State.writeLength_M]
  exact ⟨by simp, by simp⟩

/-- Settles O41: the padded bytes are the definition's, and the rest is where their length field stands. -/
theorem paddingFillsWholeBlocks : Obligations.PaddingFillsWholeBlocks := by
  intro B
  refine ⟨fun h => ?_, fun h => ⟨paddedBytes_of_too_long B h, pad_of_too_long B h, hash_of_too_long B h⟩⟩
  obtain ⟨room, few⟩ := zeroCount_spec B.length
  have count := completeBlocks_padded_length B
  have whole := padded_length B
  have field : (BitVec.ofNat 64 (8 * B.length)).toNat = 8 * B.length := by
    rw [BitVec.toNat_ofNat, Nat.mod_eq_of_lt (by omega)]
  obtain ⟨high, low⟩ := lastBlock_lengthWords B _ (lengthField_position B)
  refine ⟨padded B, _, _, _, paddedBytes_eq_padded B h, pad_of_bounded B h, completeBlocks_getLast? _ _ count, rfl, rfl,
    (lengthBytes_toNat _).trans field, by omega, by omega, fun j hj q => ?_, room, fun z hz => by omega, ?_⟩
  · rw [completeBlocks_getElem, byteAt_packBlock]
  · rw [high, low, lengthWords_toNat, field]

/-- Settles O42: the count is arithmetic on the length, and the block of the empty message is evaluated. -/
theorem padGivesTheStatedNumberOfBlocks : Obligations.PadGivesTheStatedNumberOfBlocks := by
  refine ⟨fun B h => ?_, rfl⟩
  have count := completeBlocks_padded_length B
  exact ⟨_, pad_of_bounded B h, count, fun _ => by omega, fun _ => by omega⟩

end Sys2Proof.Proofs.Padding
end

section
/-! SUPPORT. The streaming commands INIT, ABSORB and FINAL, each as one record update, and the micro-operation BYTEINS byte by byte
(41_preprocessor.md section 2). -/

namespace Sys2Proof.Proofs.Streaming

open Sys2Proof Sys2Proof.Machine Sys2Proof.Proofs.Procblk Sys2Proof.Proofs.BlockBytes Sys2Proof.Proofs.Chaining
open Sys2Proof.Proofs.Message Sys2Proof.Proofs.Final Sys2Proof.Proofs.Encoding

/-- Settles O13: INIT is one record update, in every phase. -/
theorem initBeginsAComputation : Obligations.InitBeginsAComputation :=
  ⟨decode_eq_ok_iff.mpr rfl, fun s => congrArg Host.Outcome.next (execInit_eq s _ rfl)⟩

/-- Settles O16: the bytes after BYTEINS, read at its own position for the last clause. -/
theorem byteInsWritesOneByteOfTheBuffer : Obligations.ByteInsWritesOneByteOfTheBuffer := by
  refine fun s v => ⟨rfl, fun q => ?_, fun free => ?_⟩
  · rw [byteAt_byteIns]
    simp only [Fin.ext_iff, bytePos]
  · rw [byteAt_byteIns, if_pos rfl, free]
    exact BitVec.zero_or

theorem bytePos_eq_63_iff_mod (LEN : BitVec 61) : bytePos LEN = 63 ↔ LEN.toNat % 64 = 63 := Fin.ext_iff

/-- A length other than the greatest leaves room for one more byte. -/
theorem room_of_ne {LEN : BitVec 61} (h : LEN.toNat ≠ 2 ^ 61 - 1) : LEN.toNat < 2 ^ 61 - 1 := by
  have := LEN.isLt
  omega

/-- Settles O14: the effect is BYTEINS and the count. -/
theorem absorbPlacesAndCountsTheByte : Obligations.AbsorbPlacesAndCountsTheByte := by
  intro s c phase valid notLongest notLast
  refine ⟨?_, ?_, fun q other => ?_⟩
  · rw [exec, execAbsorb_of_valid phase valid (room_of_ne notLongest),
      absorbByte_of_not_full _ _ (mt (bytePos_eq_63_iff_mod _).mp notLast)]
    rfl
  · rw [byteAt_byteIns, if_pos rfl]
  · rw [byteAt_byteIns, if_neg other]

/-- Settles O15: the effect is a PROCBLK of the buffer with its 64th byte. -/
theorem absorbCompressesTheFullBlock : Obligations.AbsorbCompressesTheFullBlock := by
  intro s c phase valid notLongest last
  rw [exec, execAbsorb_of_valid phase valid (room_of_ne notLongest),
    absorbByte_of_full _ _ ((bytePos_eq_63_iff_mod _).mpr last), procblk_eq]
  rfl

/-- Settles O17, by whether the length field needs a block of its own. -/
theorem finalPadsAndFinishesTheDigest : Obligations.FinalPadsAndFinishesTheDigest := by
  refine ⟨decode_eq_ok_iff.mpr rfl, fun s wrongPhase => ?_, fun s phase => ?_⟩
  · rw [exec, execFinal, if_pos wrongPhase]
    rfl
  rw [exec, execFinal, if_neg (not_not.mpr phase)]
  by_cases long : 56 ≤ s.LEN.toNat % 64
  · simp only [long, decide_true, if_true]
    rw [finish_of_long s long, bitLength_eq, procblk_eq, procblk_eq]
    rfl
  · simp only [long, decide_false]
    rw [finish_of_short s long, bitLength_eq, procblk_eq]
    rfl

end Sys2Proof.Proofs.Streaming
end

section
/-! SUPPORT. The blocks compressed along a run of INIT, ABSORBs and FINAL are those of the padded message
(41_preprocessor.md R92). -/

namespace Sys2Proof.Proofs.StreamedBlocks

open Sys2Proof Sys2Proof.Machine Sys2Proof.Proofs.Chaining Sys2Proof.Proofs.Message Sys2Proof.Proofs.Final
open Sys2Proof.Proofs.Padding Sys2Proof.Proofs.Encoding

/-- A run whose first input is a command compresses the command's blocks first. -/
theorem blocksOfRun_command {s t : State} {i : Instr} {rest : List HostInput} (k : Nat)
    (next : s.inbox = .command (encode i) :: rest) (runs : exec i { s with inbox := rest } = .next t) :
    blocksOfRun (k + 1) s = blocksOfCommand i s ++ blocksOfRun k t := by
  have decoded : decode (encode i) = .ok i := decode_eq_ok_iff.mpr rfl
  have stepped : step s = .next t := by simp only [step, runNext, next, runInput, runWord, decoded, runs]
  have blocks : blocksOfStep s = blocksOfCommand i s := by simp only [blocksOfStep, next, decoded]
  rw [blocksOfRun, stepped, blocks]

theorem absorbed_inbox {s : State} {B : List Byte} (h : Absorbed s B) (rest : List HostInput) :
    Absorbed { s with inbox := rest } B :=
  ⟨h.phase, h.len, h.chained, h.placed, h.tailZero⟩

/-- FINAL compresses what the padding adds to the complete blocks. -/
theorem blocksOfRun_final {s : State} {B : List Byte} {rest : List HostInput} (h : Absorbed s B)
    (next : s.inbox = .command (encode .final) :: rest) : blocksOfRun 1 s = finalBlocks s := by
  obtain ⟨t, runs, _⟩ := finalLeavesTheHash _ B (absorbed_inbox h rest)
  rw [blocksOfRun_command 0 next runs, blocksOfCommand, if_pos h.phase, blocksOfRun, List.append_nil]

/-- The inputs that take in the elements `C` and finish the digest, before the inputs `rest`. -/
def finishInputs (C : List Element) (rest : List HostInput) : List HostInput :=
  sendCommands (absorbCommands C ++ [.final]) ++ rest

theorem finishInputs_cons (c : Element) (C : List Element) (rest : List HostInput) :
    finishInputs (c :: C) rest = .command (encode (.absorb c)) :: finishInputs C rest := rfl

theorem sendCommands_messageCommands (C : List Element) (rest : List HostInput) :
    sendCommands (messageCommands C) ++ rest = .command (encode .init) :: finishInputs C rest := rfl

/-- From a state that represents `B`, the rest `C` of a valid message and FINAL compress the padded blocks that `B` has not completed
yet. -/
theorem pad_eq_completeBlocks_append_run (C : List Element) {s : State} {B : List Byte} {rest : List HostInput}
    (h : Absorbed s B) (valid : ∀ c ∈ C, c.toNat ≤ 255) (bounded : B.length + C.length ≤ 2 ^ 61 - 1)
    (next : s.inbox = finishInputs C rest) :
    pad (B ++ C.map (BitVec.setWidth 8)) = .ok (completeBlocks B ++ blocksOfRun (C.length + 1) s) := by
  induction C generalizing s B with
  | nil =>
    rw [List.map_nil, List.append_nil, List.length_nil, blocksOfRun_final h next]
    exact pad_of_absorbed h
  | cons c C ih =>
    obtain ⟨validHead, validTail⟩ := List.forall_mem_cons.mp valid
    rw [List.length_cons] at bounded
    have room : B.length < 2 ^ 61 - 1 := by omega
    have notLongest : s.LEN.toNat < 2 ^ 61 - 1 := by rw [h.len]; exact room
    have notFull : lengthFull s.LEN = false := by
      rw [← Bool.not_eq_true, lengthFull_iff]
      exact Nat.ne_of_lt notLongest
    have taken := absorbed_inbox h (finishInputs C rest)
    have absorbed := absorbed_respond (absorbed_absorbByte taken (c.setWidth 8) room) (okResponse 0)
    have later := ih absorbed validTail (by rw [List.length_append, List.length_singleton]; omega)
      (by rw [State.respond_inbox, State.absorbByte_inbox])
    have first := blocksOfRun_command (C.length + 1) (next.trans (finishInputs_cons c C rest))
      (execAbsorb_of_valid taken.phase validHead notLongest)
    rw [blocksOfCommand_absorb s c h.phase ((validElement_iff c).mpr validHead) notFull, elementByte_eq_setWidth] at first
    rw [List.map_cons, List.append_cons, later, List.length_cons, first, completeBlocks_append_byte h, List.append_assoc]

/-- Settles O52: INIT compresses nothing and represents the empty message; the elements and FINAL do the rest. -/
theorem streamingCommandsCompressThePaddedBlocks : Obligations.StreamingCommandsCompressThePaddedBlocks := by
  intro s C rest valid bounded next
  have initRuns : exec .init { s with inbox := finishInputs C rest } = .next _ := rfl
  have blocks := blocksOfRun_command (C.length + 1) (next.trans (sendCommands_messageCommands C rest)) initRuns
  have streamed := pad_eq_completeBlocks_append_run C (rest := rest) (absorbed_nil_of_execInit initRuns) valid
    (by rw [List.length_nil, Nat.zero_add]; exact bounded) rfl
  have noBlocks : blocksOfCommand .init s = completeBlocks [] := rfl
  rw [noBlocks] at blocks
  rw [← blocks, List.nil_append] at streamed
  exact ⟨streamed, (pad_length streamed).trans (by rw [List.length_map])⟩

end Sys2Proof.Proofs.StreamedBlocks
end

section
/-! SUPPORT. The Scheduler (42_scheduler.md): the pure schedule index by index, SCHED as one record update, and the sigmas of the
Scheduler and the CompressionEngine in BitVec's own rotation and shift. -/

namespace Sys2Proof.Proofs.Scheduler

open Sys2Proof Sys2Proof.Machine Sys2Proof.Proofs.Procblk

/-! ### The sigmas -/

theorem smallSigma0_eq (u : Word) : smallSigma0 u = u.rotateRight 7 ^^^ u.rotateRight 18 ^^^ (u >>> 3) := by
  rw [smallSigma0, rotr_eq u 7 (by omega), rotr_eq u 18 (by omega), shr]

theorem smallSigma1_eq (u : Word) : smallSigma1 u = u.rotateRight 17 ^^^ u.rotateRight 19 ^^^ (u >>> 10) := by
  rw [smallSigma1, rotr_eq u 17 (by omega), rotr_eq u 19 (by omega), shr]

theorem bigSigma0_eq (u : Word) : bigSigma0 u = u.rotateRight 2 ^^^ u.rotateRight 13 ^^^ u.rotateRight 22 := by
  rw [bigSigma0, rotr_eq u 2 (by omega), rotr_eq u 13 (by omega), rotr_eq u 22 (by omega)]

theorem bigSigma1_eq (u : Word) : bigSigma1 u = u.rotateRight 6 ^^^ u.rotateRight 11 ^^^ u.rotateRight 25 := by
  rw [bigSigma1, rotr_eq u 6 (by omega), rotr_eq u 11 (by omega), rotr_eq u 25 (by omega)]

/-- Settles O32: the expressions are the four equations, and the corner cases are closed words. -/
theorem sigmaFunctionsAreAsDefined : Obligations.SigmaFunctionsAreAsDefined :=
  ⟨smallSigma0_eq, smallSigma1_eq, bigSigma0_eq, bigSigma1_eq, by decide⟩

/-! ### The pure schedule -/

/-- A word of the schedule, once computed, is not changed by the passes after it. -/
theorem scheduleWords_getD_of_le (block : Block) {k n i : Nat} (hkn : k ≤ n) (hi : i < 16 + k) :
    (scheduleWords block n).getD i 0 = (scheduleWords block k).getD i 0 := by
  induction n, hkn using Nat.le_induction with
  | base => rfl
  | succ n hkn ih => rw [scheduleWords_succ_getD, if_pos (by omega), ih]

/-- An entry of the schedule can be read off any pass that has computed it. -/
theorem expand_getElem_of_lt (block : Block) {k i : Nat} (hk : k ≤ 48) (hi : i < 16 + k) :
    (expand block)[i] = (scheduleWords block k).getD i 0 := by
  rw [expand_getElem, scheduleWords_getD_of_le block hk hi]

/-- Before the first pass the words are the block. -/
theorem expand_getElem_of_lt_sixteen (block : Block) {t : Nat} (ht : t < 16) : (expand block)[t] = block[t] := by
  rw [expand_getElem_of_lt block (Nat.zero_le 48) ht, scheduleWords, List.getD_eq_getElem _ _ (by simpa using ht),
    Vector.getElem_toList]

/-- The sum of the recurrence needs no bracketing: `add32` is the addition of words (43_compression.md R114). -/
theorem scheduleSum_eq (w2 w7 w15 w16 : Word) :
    scheduleSum w2 w7 w15 w16 = smallSigma1 w2 + w7 + smallSigma0 w15 + w16 := by
  simp only [scheduleSum, add32_eq]

/-- Pass `k` computes entry `16 + k` from entries that are there already. -/
theorem expand_getElem_sixteen_add (block : Block) {k : Nat} (hk : k < 48) :
    (expand block)[16 + k] =
      scheduleSum (expand block)[14 + k] (expand block)[9 + k] (expand block)[1 + k] (expand block)[k] := by
  have earlier {i : Nat} (hi : i < 16 + k) : (expand block)[i] = (scheduleWords block k).getD i 0 :=
    expand_getElem_of_lt block (by omega) hi
  rw [expand_getElem_of_lt block (k := k + 1) hk (by omega), scheduleWords_succ_getD, if_neg (by omega), if_pos rfl,
    earlier (by omega), earlier (by omega), earlier (by omega), earlier (by omega)]

/-- Settles O34: the entries below 16 are the block's, and entry `t = 16 + k` is what pass `k` computes. -/
theorem expandFollowsTheRecurrence : Obligations.ExpandFollowsTheRecurrence := by
  intro block t
  refine ⟨fun ht => expand_getElem_of_lt_sixteen block ht, fun h16 ht => ?_⟩
  obtain ⟨k, rfl⟩ := Nat.exists_eq_add_of_le h16
  rw [expand_getElem_sixteen_add block (by omega), scheduleSum_eq]
  simp only [show 16 + k - 2 = 14 + k by omega, show 16 + k - 7 = 9 + k by omega, show 16 + k - 15 = 1 + k by omega,
    Nat.add_sub_cancel_left]

/-! ### SCHED -/

/-- Settles O35: SCHED writes `W` only, and its two loops leave there the pure schedule of `M`, whatever `W` held. -/
theorem schedFillsTheSchedule : Obligations.SchedFillsTheSchedule := by
  intro s
  rw [State.sched, extendSchedule_copyBlock]

end Sys2Proof.Proofs.Scheduler
end

section
/-! SUPPORT. The CompressionEngine (43_compression.md): Ch and Maj bit by bit, one round as sums of words and its injectivity, FOLD
word by word, and PROCBLK as one record update. -/

namespace Sys2Proof.Proofs.Compression

open Sys2Proof Sys2Proof.Machine Sys2Proof.Proofs.WordPrimitives Sys2Proof.Proofs.Procblk

/-! ### Ch and Maj (43_compression.md R106, R107) -/

/-- A bit of `u` chooses between the bits of `v` and `w`. -/
theorem getLsbD_ch (u v w : Word) {i : Nat} (hi : i < 32) :
    (ch u v w).getLsbD i = if u.getLsbD i then v.getLsbD i else w.getLsbD i := by
  have bits : ∀ a b c : Bool, ((a && b) ^^ (!a && c)) = if a then b else c := by decide
  simp only [ch, BitVec.getLsbD_xor, BitVec.getLsbD_and, BitVec.getLsbD_not, hi, decide_true, Bool.true_and, bits]

/-- Two bits of the three decide. -/
theorem getLsbD_maj (u v w : Word) (i : Nat) :
    (maj u v w).getLsbD i = decide (2 ≤ (u.getLsbD i).toNat + (v.getLsbD i).toNat + (w.getLsbD i).toNat) := by
  have bits : ∀ a b c : Bool, ((a && b) ^^ (a && c) ^^ (b && c)) = decide (2 ≤ a.toNat + b.toNat + c.toNat) := by decide
  simp only [maj, BitVec.getLsbD_xor, BitVec.getLsbD_and, bits]

theorem getLsbD_ones {i : Nat} (hi : i < 32) : (0xffffffff : Word).getLsbD i = true := by
  rw [show (0xffffffff : Word) = BitVec.allOnes 32 from rfl, BitVec.getLsbD_allOnes, decide_eq_true hi]

theorem ch_ones (v w : Word) : ch 0xffffffff v w = v :=
  BitVec.eq_of_getLsbD_eq fun i hi => by rw [getLsbD_ch _ v w hi, getLsbD_ones hi, if_pos rfl]

theorem ch_zero (v w : Word) : ch 0 v w = w :=
  BitVec.eq_of_getLsbD_eq fun i hi => by rw [getLsbD_ch 0 v w hi, BitVec.ofNat_eq_ofNat, BitVec.getLsbD_zero, if_neg nofun]

/-- Where both choices agree, nothing depends on the chooser. -/
theorem ch_self (u v : Word) : ch u v v = v := BitVec.eq_of_getLsbD_eq fun i hi => by rw [getLsbD_ch u v v hi, ite_self]

theorem maj_self (u w : Word) : maj u u w = u := by simp [maj]

theorem maj_zero (v w : Word) : maj 0 v w = v &&& w := by simp [maj]

theorem maj_ones (v w : Word) : maj 0xffffffff v w = v ||| w := by
  have bits : ∀ b c : Bool, decide (2 ≤ true.toNat + b.toNat + c.toNat) = (b || c) := by decide
  exact BitVec.eq_of_getLsbD_eq fun i hi => by rw [getLsbD_maj, getLsbD_ones hi, bits, BitVec.getLsbD_or]

theorem maj_swap_left (u v w : Word) : maj u v w = maj v u w :=
  BitVec.eq_of_getLsbD_eq fun i _ => by rw [getLsbD_maj, getLsbD_maj, Nat.add_comm (u.getLsbD i).toNat]

theorem maj_swap_right (u v w : Word) : maj u v w = maj u w v :=
  BitVec.eq_of_getLsbD_eq fun i _ => by rw [getLsbD_maj, getLsbD_maj, Nat.add_right_comm]

/-- Settles O33: the two rules bit by bit, and the corner cases of each. -/
theorem chChoosesAndMajTakesTheMajority : Obligations.ChChoosesAndMajTakesTheMajority := by
  intro u v w
  exact ⟨rfl, rfl, fun _ hi => getLsbD_ch u v w hi, fun i _ => getLsbD_maj u v w i,
    ch_ones v w, ch_zero v w, ch_self u v,
    maj_self u w, maj_zero v w, maj_ones v w, maj_swap_left u v w, maj_swap_right u v w⟩

/-! ### One round (43_compression.md R108, R115) -/

/-- The five terms of `T1` are reduced once, at the end. -/
theorem toNat_roundT1 (v : Words8) (k w : Word) :
    (roundT1 v k w).toNat =
      (v[7].toNat + (bigSigma1 v[4]).toNat + (ch v[4] v[5] v[6]).toNat + k.toNat + w.toNat) % 2 ^ 32 := by
  simp only [roundT1, toNat_add32, Nat.mod_add_mod]

theorem toNat_roundT2 (v : Words8) :
    (roundT2 v).toNat = ((bigSigma0 v[0]).toNat + (maj v[0] v[1] v[2]).toNat) % 2 ^ 32 :=
  toNat_add32 _ _

theorem add32_eq_ofNat (u v : Word) : add32 u v = BitVec.ofNat 32 (u.toNat + v.toNat) := by
  rw [add32_eq, BitVec.ofNat_add, BitVec.ofNat_toNat, BitVec.ofNat_toNat, BitVec.setWidth_eq, BitVec.setWidth_eq]

/-- Settles O36: the two sums of the round over the numbers, and ROUND(t), which writes `x` only. -/
theorem roundFollowsTheRule : Obligations.RoundFollowsTheRule := by
  refine ⟨fun v k w => ?_, fun s t => rfl⟩
  simp only [Machine.round, add32_eq_ofNat, toNat_roundT1, toNat_roundT2]

/-- A known term can be taken off a sum: addition mod 2^32 loses nothing. -/
theorem add32_right_cancel {u v w : Word} (h : add32 u w = add32 v w) : u = v := by
  rw [add32_eq, add32_eq] at h
  exact add_right_cancel h

/-- Settles O37: six registers are only moved; they give `T2`, so the new `a` gives `T1`; `T1` and the new `e` give `d`, and `T1` gives
`h`. -/
theorem roundLosesNoInformation : Obligations.RoundLosesNoInformation := by
  intro k w v v' same
  have entry (i : Fin 8) : (Machine.round v k w)[i] = (Machine.round v' k w)[i] := congrArg (·[i]) same
  have a : v[0] = v'[0] := entry 1
  have b : v[1] = v'[1] := entry 2
  have c : v[2] = v'[2] := entry 3
  have e : v[4] = v'[4] := entry 5
  have f : v[5] = v'[5] := entry 6
  have g : v[6] = v'[6] := entry 7
  have T2 : roundT2 v = roundT2 v' := by simp only [roundT2, a, b, c]
  have T1 : roundT1 v k w = roundT1 v' k w := add32_right_cancel (w := roundT2 v) ((entry 0).trans (by rw [T2]; rfl))
  have d : v[3] = v'[3] := add32_right_cancel (w := roundT1 v k w) ((entry 4).trans (by rw [T1]; rfl))
  have h : v[7] = v'[7] := by
    simp only [roundT1, e, f, g] at T1
    exact add32_right_cancel (add32_right_cancel (add32_right_cancel (add32_right_cancel T1)))
  apply Vector.ext
  intro i hi
  interval_cases i <;> assumption

/-! ### FOLD and PROCBLK (43_compression.md R109, R111) -/

/-- Settles O38: FOLD writes `H` only, and its loop leaves there the word-wise sums. -/
theorem foldAddsTheWorkingRegisters : Obligations.FoldAddsTheWorkingRegisters := by
  refine fun s => ⟨rfl, fun i => ?_⟩
  rw [State.fold_H, foldWords_eq_addWords]
  simp only [Fin.getElem_fin, addWords_getElem, toNat_add32]

/-- Settles O39: the loops of SCHED, ROUND and FOLD are the pure functions, and folding a block into `H` is compressing its schedule. -/
theorem procblkCompressesTheBuffer : Obligations.ProcblkCompressesTheBuffer := by
  intro s
  rw [procblk_eq, foldBlock]

end Sys2Proof.Proofs.Compression
end

section
/-! SUPPORT. The Encoder (44_encoder.md): a digit of `H` as a quotient and as four bits of its word, its character and the code of that
character, and the obligations on RDHEX and on the rendered digest. -/

namespace Sys2Proof.Proofs.Encoder

open Sys2Proof Sys2Proof.Machine Sys2Proof.Proofs.Encoding

/-! ### The digits (R118) -/

/-- Hex digit `i % 8` of word `i / 8`, counted from the most significant. -/
theorem toNat_nibble (S : Words8) (i : BitVec 6) :
    (nibble S i).toNat = S[hexWord i].toNat / 16 ^ (7 - i.toNat % 8) % 16 := by
  have weight : 2 ^ hexShift i = 16 ^ (7 - i.toNat % 8) := by
    rw [show hexShift i = 4 * (7 - i.toNat % 8) by unfold hexShift; omega, pow_mul]
    rfl
  rw [nibble, BitVec.extractLsb'_toNat, Nat.shiftRight_eq_div_pow, weight]

/-- Bit `j` of word `k` is a bit of digit `7 - j / 4` of that word. -/
theorem getLsbD_word_eq_nibble (S : Words8) (k j : Nat) (hk : k < 8) (hj : j < 32) :
    S[k].getLsbD j = (nibble S (BitVec.ofNat 6 (8 * k + (7 - j / 4)))).getLsbD (j % 4) := by
  have index : (BitVec.ofNat 6 (8 * k + (7 - j / 4))).toNat = 8 * k + (7 - j / 4) := Nat.mod_eq_of_lt (by omega)
  have word : (8 * k + (7 - j / 4)) / 8 = k := by omega
  have bit : 28 - 4 * ((8 * k + (7 - j / 4)) % 8) + j % 4 = j := by omega
  have digit : j % 4 < 4 := Nat.mod_lt _ (by decide)
  rw [nibble, BitVec.getLsbD_extractLsb']
  simp only [hexWord, hexShift, index, Fin.getElem_fin, word, bit, digit, decide_true, Bool.true_and]

/-- Two states with the same digits are the same state. -/
theorem words_ext_of_nibble {S T : Words8} (h : ∀ i, nibble S i = nibble T i) : S = T := by
  apply Vector.ext
  intro k hk
  apply BitVec.eq_of_getLsbD_eq
  intro j hj
  rw [getLsbD_word_eq_nibble S k j hk hj, getLsbD_word_eq_nibble T k j hk hj, h]

/-- Where all words are the same, a digit is four bits of that one word. -/
theorem nibble_replicate (w : Word) (i : BitVec 6) : nibble (Vector.replicate 8 w) i = w.extractLsb' (hexShift i) 4 := by
  simp [nibble]

theorem nibble_zero (i : BitVec 6) : nibble (Vector.replicate 8 0) i = 0 := by
  rw [nibble_replicate]
  exact BitVec.extractLsb'_zero

theorem nibble_ones (i : BitVec 6) : nibble (Vector.replicate 8 0xffffffff) i = 15 := by
  have inside : ∀ j < 4, hexShift i + j < 32 := by unfold hexShift; omega
  rw [nibble_replicate, show (0xffffffff : Word) = BitVec.allOnes 32 from rfl, show (15 : BitVec 4) = BitVec.allOnes 4 from rfl]
  ext j hj
  simp only [BitVec.getElem_extractLsb', BitVec.getLsbD_allOnes, BitVec.getElem_allOnes, inside j hj, decide_true]

/-! ### The characters and their codes (R118, R120) -/

theorem toNat_hexCode : ∀ v : BitVec 4,
    (hexCode v).toNat = if v.toNat < 10 then 0x30 + v.toNat else 0x57 + v.toNat := by
  decide

/-- The code that RDHEX answers is the character's own. -/
theorem toNat_hexDigit : ∀ v : BitVec 4, (hexDigit v).toNat = (hexCode v).toNat := by
  decide

theorem hexDigit_range : ∀ v : BitVec 4, ('0' ≤ hexDigit v ∧ hexDigit v ≤ '9') ∨ ('a' ≤ hexDigit v ∧ hexDigit v ≤ 'f') := by
  decide

theorem hexDigit_injective : ∀ v w : BitVec 4, hexDigit v = hexDigit w → v = w := by
  decide

/-! ### The rendered digest (R118, R122) -/

@[simp] theorem length_encodeDigest (S : Words8) : (encodeDigest S).length = 64 := by
  rw [encodeDigest, List.length_map, List.length_range]

theorem encodeDigest_getD (S : Words8) (i : BitVec 6) (c : Char) : (encodeDigest S).getD i.toNat c = hexDigit (nibble S i) := by
  simp [encodeDigest, List.getD_eq_getElem?_getD, i.isLt]

theorem encodeDigest_injective : Function.Injective encodeDigest := by
  refine fun S T same => words_ext_of_nibble fun i => hexDigit_injective _ _ ?_
  rw [← encodeDigest_getD S i '0', same, encodeDigest_getD]

/-- A state with one digit throughout is that digit's character, 64 times. -/
theorem encodeDigest_of_nibble_eq {S : Words8} {v : BitVec 4} (h : ∀ i, nibble S i = v) :
    encodeDigest S = List.replicate 64 (hexDigit v) := by
  simp only [encodeDigest, h, List.map_const', List.length_range]

/-- Settles O44: a string determines its digits, and they determine the state. -/
theorem encodedDigestIsInjective : Obligations.EncodedDigestIsInjective := by
  refine ⟨fun S => ⟨length_encodeDigest S, fun c mem => ?_⟩, encodeDigest_injective,
    encodeDigest_of_nibble_eq nibble_zero, encodeDigest_of_nibble_eq nibble_ones⟩
  obtain ⟨i, _, rfl⟩ := List.mem_map.mp mem
  exact hexDigit_range _

/-! ### RDHEX (R121, R124) -/

/-- The word of RDHEX as the sum that 30_encoding.md R58 writes. -/
theorem encode_rdhex_eq_add (i : BitVec 6) : encode (.rdhex i) = 0x40000000 + i.setWidth 32 := by
  rw [encode_rdhex, ← BitVec.append_zero_add_zero_append, BitVec.setWidth_eq_append (by omega)]
  rfl

theorem exec_rdhex_of_not_done {s : State} (wrongPhase : s.PHASE ≠ .done) (i : BitVec 6) :
    exec (.rdhex i) s = .next { s with outbox := s.outbox ++ [⟨true, 3⟩] } := by
  rw [exec, execRdhex, if_pos wrongPhase, takeTrap_of_not_fatal s _ rfl]
  rfl

/-- RDHEX in DONE answers the code of its digit and writes no register. -/
theorem exec_rdhex_of_done {s : State} (done : s.PHASE = .done) (i : BitVec 6) :
    exec (.rdhex i) s = .next { s with outbox := s.outbox ++ [⟨false, BitVec.ofNat 32 (hexCode (nibble s.H i)).toNat⟩] } := by
  rw [exec, execRdhex, if_neg (not_not.mpr done), BitVec.ofNat_toNat]
  rfl

/-- Settles O18: the digit is the quotient that R120 takes, and its code is `hexCode`. -/
theorem rdhexAnswersTheDigit : Obligations.RdhexAnswersTheDigit := by
  refine ⟨fun i => decode_eq_ok_iff.mpr (encode_rdhex_eq_add i), fun s i wrongPhase => exec_rdhex_of_not_done wrongPhase i,
    fun s i done => ?_⟩
  have word : s.H.toList.getD (i.toNat / 8) 0 = s.H[hexWord i] := by
    simp [hexWord, List.getD_eq_getElem?_getD, show i.toNat / 8 < 8 by omega]
  rw [exec_rdhex_of_done done, toNat_hexCode, toNat_nibble, word]

/-- Settles O19: the code of the digit is the code of its character. -/
theorem rdhexReadsTheEncodedDigest : Obligations.RdhexReadsTheEncodedDigest := by
  intro s i done
  rw [exec_rdhex_of_done done, encodeDigest_getD, toNat_hexDigit]

end Sys2Proof.Proofs.Encoder
end

section
/-! SUPPORT. The step and the command RDSTAT (45_control.md R125, R127, R131): a step with no input, a step on the word of a command,
the phase after any step, and the answer of RDSTAT. -/

namespace Sys2Proof.Proofs.Control

open Sys2Proof Sys2Proof.Machine Sys2Proof.Proofs.Message Sys2Proof.Proofs.Encoding

/-! ### The step (R125) -/

/-- Settles O3: with no input there is nothing to run. -/
theorem stepWithoutInputChangesNothing : Obligations.StepWithoutInputChangesNothing := by
  intro s empty
  rw [step, runNext, empty]

/-- Settles O1: the dispatch passes through the input, the word and its decoding. -/
theorem stepRunsTheDecodedCommand : Obligations.StepRunsTheDecodedCommand := by
  intro s w rest i next decoded
  rw [step, runNext, next]
  simp only [runInput, runWord, decoded]

/-- A step on the word of a command runs the command. -/
theorem step_of_encode {s : State} {i : Instr} {rest : List HostInput} (next : s.inbox = .command (encode i) :: rest) :
    step s = exec i { s with inbox := rest } :=
  stepRunsTheDecodedCommand s _ rest i next (decode_eq_ok_iff.mpr rfl)

/-! ### RDSTAT (R131) -/

/-- STATUS as the sum of shifts that R131 writes. -/
theorem status_eq_shifts (s : State) :
    s.status = (s.BADCHAR.setWidth 32 <<< 16) ||| (s.CAUSE.setWidth 32 <<< 2) ||| s.PHASE.code.setWidth 32 := by
  rw [State.status]
  apply BitVec.eq_of_getLsbD_eq
  intro i hi
  have phaseEnds : 2 ≤ i → s.PHASE.code.getLsbD i = false := BitVec.getLsbD_of_ge _ _
  have causeEnds : 5 ≤ i → s.CAUSE.getLsbD (i - 2) = false := fun h => BitVec.getLsbD_of_ge _ _ (by omega)
  simp only [BitVec.getLsbD_append, BitVec.getLsbD_or, BitVec.getLsbD_shiftLeft, BitVec.getLsbD_setWidth,
    BitVec.getLsbD_zero]
  -- at each bit the view shows one field; the others are shifted past it or have ended before it
  split_ifs with inPhase inCause inZero <;> grind

/-- Settles O20: the view is the sum of its shifted fields. -/
theorem rdstatAnswersTheStatus : Obligations.RdstatAnswersTheStatus := by
  refine ⟨decode_eq_ok_iff.mpr rfl, fun s => ?_⟩
  rw [exec, execRdstat, status_eq_shifts]
  rfl

/-! ### The phase after a step (R127) -/

theorem takeTrap_PHASE_of_not_fatal (s : State) {e : Trap} (notFatal : e.fatal = false) : (s.takeTrap e).PHASE = s.PHASE := by
  rw [takeTrap_of_not_fatal s e notFatal]

theorem execInit_PHASE {s t : State} (h : execInit s = .next t) : t.PHASE = .absorbing := by
  rw [execInit_eq s t h]

/-- The two fatal exceptions are those of an ABSORB in ABSORBING. -/
theorem execAbsorb_PHASE {c : Element} {s t : State} (h : execAbsorb c s = .next t) :
    t.PHASE = if s.PHASE = .absorbing ∧ (255 < c.toNat ∨ s.LEN.toNat = 2 ^ 61 - 1) then .failed else s.PHASE := by
  obtain ⟨wrongPhase, rfl⟩ | ⟨phase, invalid, rfl⟩ | ⟨phase, _, full, rfl⟩ | ⟨phase, valid, room, rfl⟩ := execAbsorb_cases c s t h
  · rw [if_neg (fun fatal => wrongPhase fatal.1), takeTrap_PHASE_of_not_fatal s rfl]
  · rw [← Bool.not_eq_true, validElement_iff, Nat.not_le] at invalid
    rw [if_pos ⟨phase, .inl invalid⟩]
    rfl
  · rw [if_pos ⟨phase, .inr ((lengthFull_iff s.LEN).mp full)⟩]
    rfl
  · rw [validElement_iff] at valid
    rw [← Bool.not_eq_true, lengthFull_iff] at room
    rw [if_neg (fun fatal => fatal.2.elim (Nat.not_lt.mpr valid) room), State.respond_PHASE, State.absorbByte_PHASE]

theorem execFinal_PHASE {s t : State} (h : execFinal s = .next t) :
    t.PHASE = if s.PHASE = .absorbing then .done else s.PHASE := by
  obtain ⟨wrongPhase, rfl⟩ | ⟨phase, rfl⟩ := execFinal_cases s t h
  · rw [if_neg wrongPhase, takeTrap_PHASE_of_not_fatal s rfl]
  · rw [if_pos phase, State.respond_PHASE, State.finish_PHASE]

theorem execRdhex_PHASE {i : BitVec 6} {s t : State} (h : execRdhex i s = .next t) : t.PHASE = s.PHASE := by
  obtain ⟨_, rfl⟩ | ⟨_, rfl⟩ := execRdhex_cases i s t h
  · exact takeTrap_PHASE_of_not_fatal s rfl
  · exact State.respond_PHASE s _

theorem execRdstat_PHASE {s t : State} (h : execRdstat s = .next t) : t.PHASE = s.PHASE := by
  rw [execRdstat_eq s t h, State.respond_PHASE]

/-- Settles O29: by the input, and for a word by the command it decodes to. -/
theorem phaseChangesOnlyOnTheListedEvents : Obligations.PhaseChangesOnlyOnTheListedEvents := by
  intro s t stepped
  obtain ⟨next, rfl⟩ | ⟨rest, next, rfl⟩ | ⟨rest, next, rfl⟩ | ⟨w, rest, next, runs⟩ := step_cases s t stepped
  · rw [next]
  · rw [next]; rfl
  · rw [next]; rfl
  · obtain ⟨⟨why, decoded⟩, rfl⟩ | ⟨i, decoded, runs⟩ := runWord_cases w _ t runs
    · simp only [next, decoded]
      exact takeTrap_PHASE_of_not_fatal _ rfl
    · simp only [next, decoded]
      cases i with
      | init => exact execInit_PHASE runs
      | absorb c => exact (execAbsorb_PHASE runs :)
      | final => exact (execFinal_PHASE runs :)
      | rdhex k => exact (execRdhex_PHASE runs :)
      | rdstat => exact (execRdstat_PHASE runs :)

end Sys2Proof.Proofs.Control
end

section
/-! SUPPORT. Commands one after another, apart from the inputs that bring them: a run of the commands is a run of the machine
(45_control.md R125), whatever inputs follow. -/

namespace Sys2Proof.Proofs.Commands

open Sys2Proof Sys2Proof.Machine Sys2Proof.Proofs.Control

/-- The commands run from `s` one after another and leave `t`; the inputs of the states between do not matter. -/
inductive Runs : List Instr → State → State → Prop where
  | nil (s : State) : Runs [] s s
  | cons {i : Instr} {is : List Instr} {s t u : State} (first : exec i s = .next t) (later : Runs is t u) : Runs (i :: is) s u

theorem runs_singleton {i : Instr} {s t : State} (h : exec i s = .next t) : Runs [i] s t := .cons h (.nil t)

theorem runs_append {is js : List Instr} {s t u : State} (first : Runs is s t) (later : Runs js t u) : Runs (is ++ js) s u := by
  induction first with
  | nil s => exact later
  | cons head _ ih => exact .cons head (ih later)

/-- A run of the commands is a run of the machine that is sent them. -/
theorem reaches_of_runs {is : List Instr} {s t : State} (h : Runs is s t) (rest : List HostInput) :
    Reaches is.length { s with inbox := sendCommands is ++ rest } { t with inbox := rest } := by
  induction h with
  | nil s => rfl
  | @cons i is s t u first _ ih =>
    have next : ({ s with inbox := sendCommands (i :: is) ++ rest } : State).inbox =
        .command (encode i) :: (sendCommands is ++ rest) := rfl
    exact (reaches_succ ((step_of_encode next).trans (exec_inbox i s t _ first))).mpr ih

/-- Commands that the host has sent are run, and the inputs behind them are left. -/
theorem reaches_of_sent {is : List Instr} {s t : State} (h : Runs is s t) {rest : List HostInput}
    (sent : s.inbox = sendCommands is ++ rest) : Reaches is.length s { t with inbox := rest } := by
  have run := reaches_of_runs h rest
  rwa [← sent] at run

/-- Commands that only answer, whatever was answered before, answer one after another and leave the registers. -/
theorem runs_of_answers_only {is : List Instr} {s : State} {r : Instr → Response}
    (answers : ∀ i ∈ is, ∀ given, exec i { s with outbox := given } = .next { s with outbox := given ++ [r i] }) :
    Runs is s { s with outbox := s.outbox ++ is.map r } := by
  induction is generalizing s with
  | nil => simpa using Runs.nil s
  | cons i is ih =>
    obtain ⟨head, tail⟩ := List.forall_mem_cons.mp answers
    have later := ih (s := { s with outbox := s.outbox ++ [r i] }) tail
    rw [List.append_assoc] at later
    exact .cons (head s.outbox) later

end Sys2Proof.Proofs.Commands
end

section
/-! SUPPORT. The host sequence of 45_control.md R133, as commands run one after another: INIT and the valid elements, FINAL, the reads of
the digest; and the commands that a failed computation refuses. -/

namespace Sys2Proof.Proofs.HostSequence

open Sys2Proof Sys2Proof.Machine Sys2Proof.Proofs.Message Sys2Proof.Proofs.Final Sys2Proof.Proofs.Encoder
open Sys2Proof.Proofs.Responses Sys2Proof.Proofs.Commands

/-! ### What the commands of the sequence do -/

/-- Valid elements are taken in, each with an empty answer. -/
theorem runs_absorbCommands (C : List Element) {s : State} {B : List Byte} (h : Absorbed s B) (valid : ∀ c ∈ C, c.toNat ≤ 255)
    (bounded : B.length + C.length ≤ 2 ^ 61 - 1) :
    ∃ t, Runs (absorbCommands C) s t ∧ Absorbed t (B ++ C.map (BitVec.setWidth 8)) ∧
      t.outbox = s.outbox ++ List.replicate C.length (okResponse 0) := by
  induction C generalizing s B with
  | nil => exact ⟨s, .nil s, by simpa using h, by simp⟩
  | cons c C ih =>
    obtain ⟨validHead, validTail⟩ := List.forall_mem_cons.mp valid
    rw [List.length_cons] at bounded
    have room : B.length < 2 ^ 61 - 1 := by omega
    have absorbed := absorbed_respond (absorbed_absorbByte h (c.setWidth 8) room) (okResponse 0)
    obtain ⟨t, runs, represents, answered⟩ :=
      ih absorbed validTail (by rw [List.length_append, List.length_singleton]; omega)
    refine ⟨t, .cons (execAbsorb_of_valid h.phase validHead (h.len ▸ room)) runs, ?_, ?_⟩
    · rwa [List.append_assoc] at represents
    · rw [answered, State.respond_outbox, State.absorbByte_outbox, List.append_assoc, List.length_cons, List.replicate_succ]
      rfl

/-- INIT and valid elements, from any state. -/
theorem runs_init_absorbCommands (C : List Element) (s : State) (valid : ∀ c ∈ C, c.toNat ≤ 255)
    (bounded : C.length ≤ 2 ^ 61 - 1) :
    ∃ t, Runs (.init :: absorbCommands C) s t ∧ Absorbed t (C.map (BitVec.setWidth 8)) ∧
      t.outbox = s.outbox ++ List.replicate (C.length + 1) (okResponse 0) := by
  have initRuns : exec .init s = .next _ := rfl
  obtain ⟨t, runs, represents, answered⟩ :=
    runs_absorbCommands C (absorbed_nil_of_execInit initRuns) valid (by rwa [List.length_nil, Nat.zero_add])
  refine ⟨t, .cons initRuns runs, represents, ?_⟩
  rw [answered, State.respond_outbox, List.append_assoc, List.replicate_succ]
  rfl

/-- INIT, the elements and FINAL leave the digest of a valid message. -/
theorem runs_messageCommands (C : List Element) (s : State) (valid : ∀ c ∈ C, c.toNat ≤ 255) (bounded : C.length ≤ 2 ^ 61 - 1) :
    ∃ t, Runs (messageCommands C) s t ∧ Digested t (C.map (BitVec.setWidth 8)) ∧
      t.outbox = s.outbox ++ List.replicate (C.length + 2) (okResponse 0) := by
  obtain ⟨t, runs, represents, answered⟩ := runs_init_absorbCommands C s valid bounded
  have finalRuns : exec .final t = .next (t.finish.respond (okResponse 0)) := by
    rw [exec, execFinal, if_neg (not_not.mpr represents.phase)]
  refine ⟨_, runs_append runs (runs_singleton finalRuns), digested_of_absorbed represents _, ?_⟩
  rw [State.respond_outbox, State.finish_outbox, answered, List.append_assoc, ← List.replicate_succ']

/-- In DONE the reads of the digest answer the codes of its characters (44_encoder.md R124). -/
theorem runs_digestCommands {s : State} (done : s.PHASE = .done) :
    Runs digestCommands s { s with
      outbox := s.outbox ++ (encodeDigest s.H).map (fun ch => ⟨false, BitVec.ofNat 32 ch.toNat⟩) } := by
  have reads : Runs digestCommands s { s with outbox := s.outbox ++ digestCommands.map (fun i => okResponse (answerData s i)) } := by
    refine runs_of_answers_only fun i mem given => ?_
    obtain ⟨k, _, rfl⟩ := List.mem_map.mp mem
    rw [exec, execRdhex, if_neg (not_not.mpr done)]
    rfl
  have characters : digestCommands.map (fun i => okResponse (answerData s i)) =
      (encodeDigest s.H).map (fun ch => ⟨false, BitVec.ofNat 32 ch.toNat⟩) := by
    rw [digestCommands, encodeDigest, List.map_map, List.map_map]
    refine List.map_congr_left fun k _ => ?_
    simp only [Function.comp_apply, toNat_hexDigit, BitVec.ofNat_toNat]
    rfl
  rwa [characters] at reads

/-- In FAILED everything but INIT and RDSTAT is refused and writes no register (60_exceptions.md R143). -/
theorem exec_of_failed {s : State} {i : Instr} (failed : s.PHASE = .failed) (notInit : i ≠ .init) (notRdstat : i ≠ .rdstat) :
    exec i s = .next (s.takeTrap .sequenceError) := by
  cases i with
  | init => exact absurd rfl notInit
  | absorb c => rw [exec, execAbsorb, if_pos (by rw [failed]; decide)]
  | final => rw [exec, execFinal, if_pos (by rw [failed]; decide)]
  | rdhex k => rw [exec, execRdhex, if_pos (by rw [failed]; decide)]
  | rdstat => exact absurd rfl notRdstat

theorem runs_of_failed {s : State} {is : List Instr} (failed : s.PHASE = .failed) (notInit : .init ∉ is) (notRdstat : .rdstat ∉ is) :
    Runs is s { s with outbox := s.outbox ++ List.replicate is.length (errResponse 3) } := by
  rw [← List.map_const']
  exact runs_of_answers_only fun i mem given =>
    exec_of_failed failed (fun e => notInit (e ▸ mem)) (fun e => notRdstat (e ▸ mem))

/-! ### The whole-message law -/

theorem sendCommands_hashCommands (C : List Element) (rest : List HostInput) :
    sendCommands (hashCommands C) ++ rest = sendCommands (messageCommands C) ++ (sendCommands digestCommands ++ rest) := by
  simp only [hashCommands, sendCommands, List.map_append, List.append_assoc]

theorem length_messageCommands (C : List Element) : (messageCommands C).length = C.length + 2 := by
  simp [messageCommands, absorbCommands]

theorem length_digestCommands : digestCommands.length = 64 := by
  rw [digestCommands, List.length_map, List.length_range]

/-- The digest of a valid message is its hash, rendered (45_control.md R132). -/
theorem computeDigestHex_of_valid {C : List Element} {S : Words8} (valid : ∀ c ∈ C, c.toNat ≤ 255)
    (hashed : Machine.hash (C.map (BitVec.setWidth 8)) = .ok S) : computeDigestHex C = .ok (encodeDigest S) := by
  have allValid : C.all validElement = true := List.all_eq_true.mpr fun c mem => (validElement_iff c).mpr (valid c mem)
  rw [computeDigestHex, messageBytes_of_valid C allValid, funext elementByte_eq_setWidth]
  simp only [Except.bind, hashed, Except.map]

theorem computeDigestHex_of_invalid {C : List Element} {c : Element} (mem : c ∈ C) (invalid : 255 < c.toNat) :
    computeDigestHex C = .error .invalidByte := by
  have notAll : C.all validElement = false := List.all_eq_false.mpr ⟨c, mem, mt (validElement_iff c).mp (Nat.not_le.mpr invalid)⟩
  rw [computeDigestHex, messageBytes_of_invalid C notAll]
  rfl

/-- Settles O50: the message leaves its digest in DONE, and the reads answer its characters. -/
theorem hostSequenceComputesTheDigest : Obligations.HostSequenceComputesTheDigest := by
  intro s C rest valid bounded next
  obtain ⟨t, runs, digested, answered⟩ := runs_messageCommands C s valid bounded
  have message := reaches_of_sent runs (next.trans (sendCommands_hashCommands C rest))
  have reads := reaches_of_runs (runs_digestCommands digested.phase) rest
  rw [length_messageCommands] at message
  rw [length_digestCommands] at reads
  exact ⟨_, _, encodeDigest t.H, message, digested.phase, digested.digest, reads, ⟨rfl, rfl, rfl, rfl, rfl, rfl, rfl, rfl⟩, rfl,
    computeDigestHex_of_valid valid digested.digest, congrArg (· ++ _) answered⟩

/-- The commands that follow the invalid element in the sequence. -/
def laterCommands (D : List Element) : List Instr := absorbCommands D ++ .final :: digestCommands

theorem length_laterCommands (D : List Element) : (laterCommands D).length = D.length + 65 := by
  simp [laterCommands, absorbCommands, length_digestCommands]

theorem hashCommands_append_cons (A D : List Element) (c : Element) :
    hashCommands (A ++ c :: D) = (.init :: absorbCommands A) ++ .absorb c :: laterCommands D := by
  simp [hashCommands, messageCommands, absorbCommands, laterCommands]

/-- Settles O51: the elements before the invalid one are taken in, it ends the computation, and FAILED refuses the rest. -/
theorem hostSequenceRejectsAnInvalidElement : Obligations.HostSequenceRejectsAnInvalidElement := by
  intro s A D c rest valid invalid bounded next
  refine ⟨computeDigestHex_of_invalid (List.mem_append_right A List.mem_cons_self) invalid, ?_⟩
  rw [List.length_append] at bounded
  obtain ⟨t, taken, represents, answered⟩ := runs_init_absorbCommands A s valid (by omega)
  have trapped : exec (.absorb c) t = .next (t.takeTrap (.invalidByte c)) := by
    rw [exec, execAbsorb, if_neg (not_not.mpr represents.phase), if_pos (mt (validElement_iff c).mp (Nat.not_le.mpr invalid))]
  have refused : Runs (laterCommands D) (t.takeTrap (.invalidByte c)) _ :=
    runs_of_failed rfl (by simp [laterCommands, absorbCommands, digestCommands])
      (by simp [laterCommands, absorbCommands, digestCommands])
  rw [hashCommands_append_cons] at next
  have whole := reaches_of_sent (runs_append taken (.cons trapped refused)) next
  rw [State.takeTrap_outbox, answered, length_laterCommands] at whole
  have count : (.init :: absorbCommands A ++ .absorb c :: laterCommands D).length = (A ++ c :: D).length + 66 := by
    simp [absorbCommands, length_laterCommands]
    omega
  rw [count] at whole
  exact ⟨_, whole, rfl, rfl, rfl, rfl, rfl⟩

end Sys2Proof.Proofs.HostSequence
end

section
/-! SUPPORT. An INIT cuts a run off from what came before it (45_control.md R134): no input looks at the responses already given, and
after INIT a host cannot tell two states apart but by those. -/

namespace Sys2Proof.Proofs.FreshStart

open Sys2Proof Sys2Proof.Machine Sys2Proof.Proofs.Chaining Sys2Proof.Proofs.Indistinguishable
open Sys2Proof.Proofs.Streaming Sys2Proof.Proofs.Control

/-! ### Responses already given -/

/-- The state with the responses `o` given before those it has. -/
def after (o : List Response) (s : State) : State := { s with outbox := o ++ s.outbox }

theorem after_respond (o : List Response) (s : State) (r : Response) : (after o s).respond r = after o (s.respond r) := by
  simp only [after, State.respond, List.append_assoc]

theorem after_takeTrap (o : List Response) (s : State) (e : Trap) : (after o s).takeTrap e = after o (s.takeTrap e) := by
  have recorded : (after o s).recordTrap e = after o (s.recordTrap e) := by cases e <;> rfl
  rw [State.takeTrap, recorded, after_respond, State.takeTrap]

theorem after_absorbByte (o : List Response) (s : State) (v : Byte) :
    (after o s).absorbByte v = after o (s.absorbByte v) := by
  by_cases full : bytePos s.LEN = 63
  · rw [absorbByte_of_full s v full, absorbByte_of_full (after o s) v full]; rfl
  · rw [absorbByte_of_not_full s v full, absorbByte_of_not_full (after o s) v full]; rfl

theorem after_finish (o : List Response) (s : State) : (after o s).finish = after o s.finish := by
  by_cases long : 56 ≤ (bytePos s.LEN).val
  · rw [finish_of_long s long, finish_of_long (after o s) long]; rfl
  · rw [finish_of_short s long, finish_of_short (after o s) long]; rfl

/-- The first outcome is a next state, and the second is the same one with the responses `o` before its own. -/
def NextAfter (o : List Response) (p q : Host.Outcome State Fault Refusal) : Prop := ∃ t, p = .next t ∧ q = .next (after o t)

theorem nextAfter_of_eq {o : List Response} {t u : State} (h : u = after o t) : NextAfter o (.next t) (.next u) :=
  ⟨t, rfl, congrArg _ h⟩

theorem nextAfter_takeTrap (o : List Response) (s : State) (e : Trap) :
    NextAfter o (.next (s.takeTrap e)) (.next ((after o s).takeTrap e)) :=
  nextAfter_of_eq (after_takeTrap o s e)

theorem nextAfter_respond {o : List Response} {t u : State} (h : u = after o t) (r : Response) :
    NextAfter o (.next (t.respond r)) (.next (u.respond r)) :=
  nextAfter_of_eq (by rw [h, after_respond])

theorem nextAfter_execAbsorb (o : List Response) (c : Element) (s : State) :
    NextAfter o (execAbsorb c s) (execAbsorb c (after o s)) := by
  have phase : (after o s).PHASE = s.PHASE := rfl
  have len : (after o s).LEN = s.LEN := rfl
  rw [execAbsorb, execAbsorb, phase, len]
  split
  · exact nextAfter_takeTrap o s _
  · split
    · exact nextAfter_takeTrap o s _
    · split
      · exact nextAfter_takeTrap o s _
      · exact nextAfter_respond (after_absorbByte o s _) _

theorem nextAfter_execFinal (o : List Response) (s : State) : NextAfter o (execFinal s) (execFinal (after o s)) := by
  have phase : (after o s).PHASE = s.PHASE := rfl
  rw [execFinal, execFinal, phase]
  split
  · exact nextAfter_takeTrap o s _
  · exact nextAfter_respond (after_finish o s) _

theorem nextAfter_execRdhex (o : List Response) (i : BitVec 6) (s : State) :
    NextAfter o (execRdhex i s) (execRdhex i (after o s)) := by
  have phase : (after o s).PHASE = s.PHASE := rfl
  rw [execRdhex, execRdhex, phase]
  split
  · exact nextAfter_takeTrap o s _
  · exact nextAfter_respond rfl _

/-- No command looks at the responses already given. -/
theorem nextAfter_exec (o : List Response) (i : Instr) (s : State) : NextAfter o (exec i s) (exec i (after o s)) := by
  cases i with
  | init => exact nextAfter_respond rfl _
  | absorb c => exact nextAfter_execAbsorb o c s
  | final => exact nextAfter_execFinal o s
  | rdhex k => exact nextAfter_execRdhex o k s
  | rdstat => exact nextAfter_respond rfl _

theorem nextAfter_runInput (o : List Response) (a : HostInput) (s : State) :
    NextAfter o (runInput a s) (runInput a (after o s)) := by
  cases a with
  | command w =>
    rw [runInput, runInput, runWord, runWord]
    cases decode w with
    | ok i => exact nextAfter_exec o i s
    | error why => exact nextAfter_takeTrap o s .illegalCommand
  | reset => exact nextAfter_of_eq rfl
  | removePower => exact nextAfter_of_eq rfl

theorem nextAfter_step (o : List Response) (s : State) : NextAfter o (step s) (step (after o s)) := by
  have inbox : (after o s).inbox = s.inbox := rfl
  rw [step, step, runNext, runNext, inbox]
  cases s.inbox with
  | nil => exact nextAfter_of_eq rfl
  | cons a rest => exact nextAfter_runInput o a { s with inbox := rest }

/-- A run goes alike after any responses. -/
theorem reaches_after {k : Nat} {s t : State} (o : List Response) (h : Reaches k s t) : Reaches k (after o s) (after o t) := by
  induction k generalizing s with
  | zero => exact congrArg (Host.Outcome.next ∘ after o) (Host.Outcome.next.inj h)
  | succ k ih =>
    obtain ⟨u, first, firstAfter⟩ := nextAfter_step o s
    exact (reaches_succ firstAfter).mpr (ih ((reaches_succ first).mp h))

/-! ### The responses that are new -/

/-- Two states that a host cannot tell apart stay so for any number of steps. -/
theorem reaches_same {s t : State} (k : Nat) (h : SameToHost s t) : ∃ s' t', Reaches k s s' ∧ Reaches k t t' ∧ SameToHost s' t' := by
  induction k generalizing s t with
  | zero => exact ⟨s, t, rfl, rfl, h⟩
  | succ k ih =>
    obtain ⟨u, v, first, second, alike⟩ := stepKeepsStatesIndistinguishable s t h
    obtain ⟨s', t', run, run', same⟩ := ih alike
    exact ⟨s', t', (reaches_succ first).mpr run, (reaches_succ second).mpr run', same⟩

/-- The state with no response given yet. -/
def unanswered (s : State) : State := { s with outbox := [] }

theorem after_unanswered (s : State) : after s.outbox (unanswered s) = s := by
  rw [after, unanswered, List.append_nil]

/-- INIT leaves two states alike that agree on the inputs to come and on the responses given (10_state.md R37). -/
theorem step_init_same {s t : State} {rest : List HostInput} (next : s.inbox = .command (encode .init) :: rest)
    (inputs : t.inbox = s.inbox) (answered : t.outbox = s.outbox) :
    ∃ s' t', step s = .next s' ∧ step t = .next t' ∧ SameToHost s' t' := by
  obtain ⟨_, init⟩ := initBeginsAComputation
  refine ⟨_, _, (step_of_encode next).trans (init _), (step_of_encode (inputs.trans next)).trans (init _), ?_⟩
  exact ⟨rfl, rfl, rfl, rfl, congrArg (· ++ _) answered.symm, fun _ => ⟨rfl, rfl, rfl⟩, fun _ => rfl⟩

/-- From an INIT on, two runs that begin with no response given answer the same. -/
theorem reaches_from_init {s t : State} {rest : List HostInput} (k : Nat) (next : s.inbox = .command (encode .init) :: rest)
    (inputs : t.inbox = s.inbox) :
    ∃ s' t', Reaches k (unanswered s) s' ∧ Reaches k (unanswered t) t' ∧ s'.outbox = t'.outbox := by
  cases k with
  | zero => exact ⟨_, _, rfl, rfl, rfl⟩
  | succ k =>
    obtain ⟨u, v, first, second, alike⟩ := step_init_same (s := unanswered s) (t := unanswered t) next inputs rfl
    obtain ⟨s', t', run, run', same⟩ := reaches_same k alike
    exact ⟨s', t', (reaches_succ first).mpr run, (reaches_succ second).mpr run', same.outbox⟩

/-- Settles O54: both runs answer what they answer with no response given before, and there INIT makes them alike. -/
theorem nothingBeforeInitReachesTheResponses : Obligations.NothingBeforeInitReachesTheResponses := by
  intro s t rest k next inputs
  obtain ⟨s', t', run, run', same⟩ := reaches_from_init k next inputs
  have runAfter := reaches_after s.outbox run
  have runAfter' := reaches_after t.outbox run'
  rw [after_unanswered] at runAfter runAfter'
  exact ⟨_, _, s'.outbox, runAfter, runAfter', rfl, congrArg (t.outbox ++ ·) same.symm⟩

end Sys2Proof.Proofs.FreshStart
end

section
/-! SUPPORT. The exception of each command and of each word (60_exceptions.md R139, R141 to R144): named once, in the priority order;
a run either takes it or completes. What an exception leaves unchanged (R137), and the phase FAILED (R145). -/

namespace Sys2Proof.Proofs.Exceptions

open Sys2Proof Sys2Proof.Machine Sys2Proof.Proofs.Message Sys2Proof.Proofs.Encoding Sys2Proof.Proofs.Responses
open Sys2Proof.Proofs.HostSequence

/-! ### The exception that is raised (R139) -/

/-- The first exception whose condition holds for a legal command, in the order of R139. -/
def raised (s : State) : Instr → Option Trap
  | .init => none
  | .absorb c =>
    if s.PHASE ≠ .absorbing then some .sequenceError
    else if 255 < c.toNat then some (.invalidByte c)
    else if s.LEN.toNat = 2 ^ 61 - 1 then some (.lengthOverflow c)
    else none
  | .final => if s.PHASE = .absorbing then none else some .sequenceError
  | .rdhex _ => if s.PHASE = .done then none else some .sequenceError
  | .rdstat => none

/-- The first exception whose condition holds for a word: an illegal word comes before all others. -/
def raisedByWord (w : Word) (s : State) : Option Trap :=
  match decode w with
  | .error _ => some .illegalCommand
  | .ok i => raised s i

theorem raisedByWord_of_ok {w : Word} {i : Instr} (decoded : decode w = .ok i) (s : State) : raisedByWord w s = raised s i := by
  rw [raisedByWord, decoded]

theorem raisedByWord_of_error {w : Word} {why : Illegal} (illegal : decode w = .error why) (s : State) :
    raisedByWord w s = some .illegalCommand := by
  rw [raisedByWord, illegal]

theorem runWord_of_ok {w : Word} {i : Instr} (decoded : decode w = .ok i) (s : State) : runWord w s = exec i s := by
  rw [runWord, decoded]

/-- The outcome `o` of a run from `s` is that of the exception `raise`, or without one a completion that answers `d`. -/
def TakesOrCompletes (s : State) (raise : Option Trap) (o : Host.Outcome State Fault Refusal) (d : Word) : Prop :=
  (∃ e, raise = some e ∧ o = .next (s.takeTrap e)) ∨ (raise = none ∧ Answers s o (okResponse d))

theorem execAbsorb_takesOrCompletes (c : Element) (s : State) : TakesOrCompletes s (raised s (.absorb c)) (execAbsorb c s) 0 := by
  by_cases phase : s.PHASE ≠ .absorbing
  · exact .inl ⟨_, if_pos phase, if_pos phase⟩
  rw [raised, execAbsorb, if_neg phase, if_neg phase]
  by_cases large : 255 < c.toNat
  · exact .inl ⟨_, if_pos large, if_pos (mt (validElement_iff c).mp (Nat.not_le.mpr large))⟩
  rw [if_neg large, if_neg (not_not.mpr ((validElement_iff c).mpr (Nat.not_lt.mp large)))]
  by_cases full : s.LEN.toNat = 2 ^ 61 - 1
  · exact .inl ⟨_, if_pos full, if_pos ((lengthFull_iff s.LEN).mpr full)⟩
  · rw [if_neg full, if_neg (mt (lengthFull_iff s.LEN).mp full)]
    exact .inr ⟨rfl, _, rfl, by simp, by simp⟩

theorem execFinal_takesOrCompletes (s : State) : TakesOrCompletes s (raised s .final) (execFinal s) 0 := by
  by_cases phase : s.PHASE = .absorbing
  · rw [execFinal, if_neg (not_not.mpr phase)]
    exact .inr ⟨if_pos phase, _, rfl, by simp, by simp⟩
  · exact .inl ⟨_, if_neg phase, if_pos phase⟩

theorem execRdhex_takesOrCompletes (k : BitVec 6) (s : State) :
    TakesOrCompletes s (raised s (.rdhex k)) (execRdhex k s) ((s.hexnib k).setWidth 32) := by
  by_cases phase : s.PHASE = .done
  · rw [execRdhex, if_neg (not_not.mpr phase)]
    exact .inr ⟨if_pos phase, _, rfl, rfl, rfl⟩
  · exact .inl ⟨_, if_neg phase, if_pos phase⟩

/-- A command takes the exception named by `raised`, or completes with its data. -/
theorem exec_takesOrCompletes (i : Instr) (s : State) : TakesOrCompletes s (raised s i) (exec i s) (answerData s i) := by
  cases i with
  | init => exact .inr ⟨rfl, _, rfl, rfl, rfl⟩
  | absorb c => exact execAbsorb_takesOrCompletes c s
  | final => exact execFinal_takesOrCompletes s
  | rdhex k => exact execRdhex_takesOrCompletes k s
  | rdstat => exact .inr ⟨rfl, _, rfl, rfl, rfl⟩

theorem exec_of_raised {i : Instr} {s : State} {e : Trap} (raises : raised s i = some e) : exec i s = .next (s.takeTrap e) := by
  obtain ⟨e', raises', run⟩ | ⟨none_raised, _⟩ := exec_takesOrCompletes i s
  · rw [run, Option.some.inj (raises.symm.trans raises')]
  · cases raises.symm.trans none_raised

/-- A word takes the exception named by `raisedByWord`, or completes. -/
theorem runWord_takesOrCompletes (w : Word) (s : State) : ∃ d, TakesOrCompletes s (raisedByWord w s) (runWord w s) d := by
  cases decoded : decode w with
  | ok i =>
    rw [raisedByWord_of_ok decoded, runWord_of_ok decoded]
    exact ⟨_, exec_takesOrCompletes i s⟩
  | error why => exact ⟨0, .inl ⟨_, raisedByWord_of_error decoded s, by rw [runWord, decoded]; rfl⟩⟩

/-- The one response of a word carries the code of the exception named by `raisedByWord`, and no code where there is none. -/
theorem runWord_reports_raisedByWord (w : Word) (s : State) : ∃ t r, runWord w s = .next t ∧ t.outbox = s.outbox ++ [r] ∧
    (if r.err then some r.data else none) = (raisedByWord w s).map fun e => (errResponse e.code).data := by
  obtain ⟨_, ⟨e, raises, run⟩ | ⟨none_raised, t, run, answered, _⟩⟩ := runWord_takesOrCompletes w s
  · exact ⟨_, _, run, State.takeTrap_outbox s e, by rw [raises]; rfl⟩
  · exact ⟨t, _, run, answered, by rw [none_raised]; rfl⟩

/-- Settles O25: `raisedByWord` names the exceptions in the order of the statement. -/
theorem firstExceptionOfThePriorityOrderIsReported : Obligations.FirstExceptionOfThePriorityOrderIsReported := by
  intro w s
  obtain ⟨t, r, run, answered, reported⟩ := runWord_reports_raisedByWord w s
  refine ⟨t, r, run, answered, reported.trans ?_⟩
  rw [raisedByWord]
  cases decode w with
  | error why => rfl
  | ok i =>
    cases i with
    | init => rfl
    | absorb c => simp only [raised, apply_ite (Option.map _)]; rfl
    | final => simp only [raised, apply_ite (Option.map _)]; rfl
    | rdhex k => simp only [raised, apply_ite (Option.map _)]; rfl
    | rdstat => rfl

/-! ### What an exception leaves unchanged (R137) -/

theorem sameRegisters_takeTrap (s : State) {e : Trap} (notFatal : e.fatal = false) : SameRegisters s (s.takeTrap e) := by
  rw [takeTrap_of_not_fatal s e notFatal]
  exact ⟨rfl, rfl, rfl, rfl, rfl, rfl, rfl, rfl⟩

/-- A response with `err = 1` comes of the exception named by `raisedByWord`, and the state is the one that it leaves. -/
theorem raisedByWord_of_err {w : Word} {s t : State} {r : Response} (run : runWord w s = .next t)
    (answered : t.outbox = s.outbox ++ [r]) (err : r.err = true) :
    ∃ e, raisedByWord w s = some e ∧ t = s.takeTrap e ∧ r = errResponse e.code := by
  obtain ⟨_, ⟨e, raises, run'⟩ | ⟨_, t', run', answered', _⟩⟩ := runWord_takesOrCompletes w s
  · obtain rfl := Host.Outcome.next.inj (run.symm.trans run')
    rw [State.takeTrap_outbox] at answered
    exact ⟨e, raises, rfl, (List.singleton_inj.mp (List.append_cancel_left answered)).symm⟩
  · obtain rfl := Host.Outcome.next.inj (run.symm.trans run')
    rw [List.singleton_inj.mp (List.append_cancel_left (answered.symm.trans answered'))] at err
    cases err

/-- A legal command raises SequenceError, or it is an ABSORB and raises a fatal exception with its own element. -/
theorem raised_cases {i : Instr} {s : State} {e : Trap} (raises : raised s i = some e) :
    e = .sequenceError ∨ ∃ c, i = .absorb c ∧ (e = .invalidByte c ∨ e = .lengthOverflow c) := by
  cases i with
  | init => cases raises
  | absorb c =>
    rw [raised] at raises
    split_ifs at raises <;> cases raises
    · exact .inl rfl
    · exact .inr ⟨c, rfl, .inl rfl⟩
    · exact .inr ⟨c, rfl, .inr rfl⟩
  | final => exact .inl (Option.some.inj (Option.ite_none_left_eq_some.mp raises).2.symm)
  | rdhex k => exact .inl (Option.some.inj (Option.ite_none_left_eq_some.mp raises).2.symm)
  | rdstat => cases raises

/-- The word that raised a fatal exception is the ABSORB of the element on record. -/
theorem decode_of_raised_fatal {w : Word} {s : State} {e : Trap} (raises : raisedByWord w s = some e) (fatal : e.fatal = true) :
    decode w = .ok (.absorb (s.takeTrap e).BADCHAR) := by
  cases decoded : decode w with
  | error why =>
    rw [raisedByWord_of_error decoded] at raises
    cases raises
    cases fatal
  | ok i =>
    rw [raisedByWord_of_ok decoded] at raises
    obtain rfl | ⟨c, rfl, rfl | rfl⟩ := raised_cases raises
    · cases fatal
    · rfl
    · rfl

theorem errResponse_fatal_iff (e : Trap) :
    ((errResponse e.code).data = 1 ∨ (errResponse e.code).data = 4) ↔ e.fatal = true := by
  cases e <;> simp [errResponse, Trap.code, Trap.fatal]

theorem errResponse_not_fatal_iff (e : Trap) :
    ((errResponse e.code).data = 2 ∨ (errResponse e.code).data = 3) ↔ e.fatal = false := by
  cases e <;> simp [errResponse, Trap.code, Trap.fatal]

/-- A fatal exception puts its code on record (R136). -/
theorem takeTrap_record_of_fatal (s : State) {e : Trap} (fatal : e.fatal = true) :
    (s.takeTrap e).PHASE = .failed ∧ (s.takeTrap e).CAUSE.toNat = (errResponse e.code).data.toNat := by
  cases e with
  | invalidByte c => exact ⟨rfl, rfl⟩
  | illegalCommand => cases fatal
  | sequenceError => cases fatal
  | lengthOverflow c => exact ⟨rfl, rfl⟩

/-- Settles O26: the exception is the one named by `raisedByWord`, and whether it is fatal decides what it writes. -/
theorem exceptionsArePrecise : Obligations.ExceptionsArePrecise := by
  intro w s t r run answered err
  obtain ⟨e, raises, rfl, rfl⟩ := raisedByWord_of_err run answered err
  refine ⟨fun code => sameRegisters_takeTrap s ((errResponse_not_fatal_iff e).mp code), fun code => ?_, ?_⟩
  · have fatal := (errResponse_fatal_iff e).mp code
    obtain ⟨phase, cause⟩ := takeTrap_record_of_fatal s fatal
    exact ⟨State.takeTrap_H s e, State.takeTrap_x s e, State.takeTrap_W s e, State.takeTrap_M s e, State.takeTrap_LEN s e,
      phase, cause, decode_of_raised_fatal raises fatal⟩
  · cases e with
    | invalidByte c => exact .inl rfl
    | illegalCommand => exact .inr (.inl rfl)
    | sequenceError => exact .inr (.inr (.inl rfl))
    | lengthOverflow c => exact .inr (.inr (.inr rfl))

/-! ### The phase FAILED (R145) -/

/-- In FAILED no command but INIT writes a register. -/
theorem sameRegisters_exec_of_failed {i : Instr} {s t : State} (failed : s.PHASE = .failed) (notInit : i ≠ .init)
    (run : exec i s = .next t) : SameRegisters s t := by
  by_cases rdstat : i = .rdstat
  · subst rdstat
    rw [execRdstat_eq s t run]
    exact ⟨rfl, rfl, rfl, rfl, rfl, rfl, rfl, rfl⟩
  · rw [Host.Outcome.next.inj (run.symm.trans (exec_of_failed failed notInit rdstat))]
    exact sameRegisters_takeTrap s rfl

/-- Settles O27: an illegal word and the refused commands write nothing, INIT and a reset write the record. -/
theorem fatalCauseStaysUntilInit : Obligations.FatalCauseStaysUntilInit := by
  intro w s t failed run
  refine ⟨fun why illegal => ?_, fun i decoded notInit notRdstat => ?_, fun notInit => ?_, fun init => ?_,
    State.applyReset_CAUSE s, State.applyReset_BADCHAR s⟩
  · exact Host.Outcome.next.inj (run.symm.trans (runWord_of_error illegal s))
  · rw [runWord_of_ok decoded] at run
    exact Host.Outcome.next.inj (run.symm.trans (exec_of_failed failed notInit notRdstat))
  · obtain ⟨_, rfl⟩ | ⟨i, decoded, run⟩ := runWord_cases w s t run
    · exact sameRegisters_takeTrap s rfl
    · exact sameRegisters_exec_of_failed failed (fun e => notInit (e ▸ decoded)) run
  · rw [runWord_of_ok init] at run
    rw [execInit_eq s t run]
    exact ⟨rfl, rfl, rfl⟩

/-! ### The exceptions one by one (R141 to R144) -/

/-- Settles O2: the step takes the word, and the word's run is the same in every phase. -/
theorem illegalWordRaisesIllegalCommand : Obligations.IllegalWordRaisesIllegalCommand := by
  intro s w rest why next illegal
  rw [step, runNext, next]
  exact runWord_of_error illegal _

/-- Settles O22: the test of the phase is the first. -/
theorem wrongPhaseRaisesSequenceError : Obligations.WrongPhaseRaisesSequenceError := by
  refine fun s => ⟨fun wrongPhase => ⟨fun c => ?_, ?_⟩, fun wrongPhase i => ?_⟩
  · exact exec_of_raised (e := .sequenceError) (if_pos wrongPhase)
  · exact exec_of_raised (e := .sequenceError) (if_neg wrongPhase)
  · exact exec_of_raised (e := .sequenceError) (if_neg wrongPhase)

/-- Settles O23: the test of the element comes before that of the length. -/
theorem invalidByteEndsTheComputation : Obligations.InvalidByteEndsTheComputation := by
  intro s c phase large
  exact exec_of_raised (e := .invalidByte c) (by rw [raised, if_neg (not_not.mpr phase), if_pos large])

/-- Settles O24: ABSORB tests the length, FINAL does not. -/
theorem lengthOverflowEndsTheComputation : Obligations.LengthOverflowEndsTheComputation := by
  refine fun s c phase full => ⟨fun valid => ?_, ?_⟩
  · exact exec_of_raised (e := .lengthOverflow c)
      (by rw [raised, if_neg (not_not.mpr phase), if_neg (Nat.not_lt.mpr valid), if_pos full])
  · exact ⟨s.finish.respond (okResponse 0), if_neg (not_not.mpr phase), rfl, by simp [okResponse]⟩

end Sys2Proof.Proofs.Exceptions
end

section
/-! SUPPORT. Reset and the removal of power as inputs of a run (70_reset_and_hazards.md R156, 60_exceptions.md R154). -/

namespace Sys2Proof.Proofs.ResetInput

open Sys2Proof Sys2Proof.Machine

theorem step_of_reset {s : State} {rest : List HostInput} (next : s.inbox = .reset :: rest) :
    step s = .next (State.applyReset { s with inbox := rest }) := by
  rw [step, runNext, next]
  rfl

theorem step_of_removePower {s : State} {rest : List HostInput} (next : s.inbox = .removePower :: rest) :
    step s = .next (State.losePower { s with inbox := rest }) := by
  rw [step, runNext, next]
  rfl

/-- Settles O4: either input is taken by the step, and the laws of `applyReset` and `loseUnspecified` give the fields. -/
theorem resetInputClearsTheControlRegisters : Obligations.ResetInputClearsTheControlRegisters := by
  refine fun s rest => ⟨fun next => ?_, fun next => ?_⟩
  · exact ⟨_, step_of_reset next, rfl, rfl, rfl, rfl, rfl⟩
  · exact ⟨State.applyReset { s with inbox := rest }, step_of_reset rfl, step_of_removePower next, rfl, rfl, rfl, rfl, rfl⟩

end Sys2Proof.Proofs.ResetInput
end

section
/-! SUPPORT. What one clock edge can do (70_reset_and_hazards.md R165 to R171), once: the edge by its cases, what each case leaves
of the handshake, and what the output pins say of it. -/

namespace Sys2Proof.Proofs.PinEdge

open Sys2Proof Sys2Proof.Machine Sys2Proof.Machine.Pins

/-! ### The inputs of an edge -/

theorem accepts_iff (p : PinState) (a : PinsIn) :
    p.accepts a = true ↔ a.rst = false ∧ a.cmdValid = true ∧ p.ctl = .ready := by
  simp [PinState.accepts, and_assoc]

theorem transfers_iff (p : PinState) (a : PinsIn) :
    p.transfers a = true ↔ a.rst = false ∧ a.rspReady = true ∧ p.ctl = .responding := by
  simp [PinState.transfers, and_assoc]

theorem accepts_eq_false {p : PinState} {a : PinsIn} (notReady : p.ctl ≠ .ready) : p.accepts a = false :=
  Bool.eq_false_iff.mpr fun accepts => notReady ((accepts_iff p a).mp accepts).2.2

theorem transfers_eq_false {p : PinState} {a : PinsIn} (notResponding : p.ctl ≠ .responding) : p.transfers a = false :=
  Bool.eq_false_iff.mpr fun transfers => notResponding ((transfers_iff p a).mp transfers).2.2

/-! ### The output pins -/

theorem outputs_of_unreset {p : PinState} (unreset : p.ctl = .unreset) (rst : Bool) : p.outputs rst = none := if_pos unreset

theorem outputs_of_responding {p : PinState} (responding : p.ctl = .responding) :
    p.outputs false = some ⟨false, true, p.response.err, p.response.data⟩ := by
  simp [PinState.outputs, responding]

/-- After the first reset the pins have values. -/
theorem exists_outputs {p : PinState} (running : p.ctl ≠ .unreset) (rst : Bool) : ∃ o, p.outputs rst = some o := by
  rw [PinState.outputs, if_neg running]
  split
  · exact ⟨_, rfl⟩
  · split <;> exact ⟨_, rfl⟩

/-- `cmd_ready` and `rsp_valid` show where the handshake stands, and are 0 while `rst = 1` (R171). -/
theorem outputs_show_handshake {p : PinState} {rst : Bool} {o : PinsOut} (out : o ∈ p.outputs rst) :
    (o.cmdReady = true ↔ rst = false ∧ p.ctl = .ready) ∧ (o.rspValid = true ↔ rst = false ∧ p.ctl = .responding) := by
  rw [PinState.outputs] at out
  split at out
  · cases out
  · split at out
    · cases out
      simp [*]
    · split at out <;> cases out <;> simp [*]

theorem cmdReady_iff {p : PinState} {rst : Bool} {o : PinsOut} (out : o ∈ p.outputs rst) :
    o.cmdReady = true ↔ rst = false ∧ p.ctl = .ready := (outputs_show_handshake out).1

theorem rspValid_iff {p : PinState} {rst : Bool} {o : PinsOut} (out : o ∈ p.outputs rst) :
    o.rspValid = true ↔ rst = false ∧ p.ctl = .responding := (outputs_show_handshake out).2

theorem outputs_of_ready {p : PinState} (ready : p.ctl = .ready) :
    ∃ o, p.outputs false = some o ∧ o.cmdReady = true ∧ o.rspValid = false := by
  obtain ⟨o, out⟩ := exists_outputs (ready ▸ nofun : p.ctl ≠ .unreset) false
  refine ⟨o, out, (cmdReady_iff out).mpr ⟨rfl, ready⟩, Bool.eq_false_iff.mpr fun rspValid => ?_⟩
  have responding := ((rspValid_iff out).mp rspValid).2
  cases ready.symm.trans responding

/-! ### The edge that accepts a command -/

/-- The pins after the word `w` was accepted and its run left `core`. -/
def afterAccept (p : PinState) (w : Word) (core : State) : PinState :=
  { core := core, ctl := busyFor (Config.latency w p.core), offered := none, edges := p.edges + 1 }

/-- The word that is accepted runs, and gives one response (30_encoding.md R66). -/
theorem acceptEdge_runs (p : PinState) (w : Word) :
    ∃ core r, p.acceptEdge w = .next (afterAccept p w core) ∧ runWord w p.core = .next core ∧
      core.outbox = p.core.outbox ++ [r] ∧ core.inbox = p.core.inbox := by
  obtain ⟨core, r, runs, answered, inputs, _⟩ := Responses.everyCommandGivesOneResponse w p.core
  exact ⟨core, r, by rw [PinState.acceptEdge, runs, afterAccept], runs, answered, inputs⟩

/-! ### The edge that neither resets nor accepts -/

@[simp] theorem inFlight_settling (n : Nat) : (Ctl.settling n).inFlight = false := rfl

@[simp] theorem inFlight_ready : Ctl.ready.inFlight = false := rfl

@[simp] theorem inFlight_busy (n : Nat) : (Ctl.busy n).inFlight = true := rfl

@[simp] theorem inFlight_responding : Ctl.responding.inFlight = true := rfl

@[simp] theorem waitEdge_core (p : PinState) (a : PinsIn) : (p.waitEdge a).core = p.core := rfl

theorem waitEdge_ctl_of_settling {p : PinState} {n : Nat} (settling : p.ctl = .settling n) (a : PinsIn) :
    (p.waitEdge a).ctl = settleFor n := by
  rw [PinState.waitEdge, settling]

theorem waitEdge_ctl_of_ready {p : PinState} (ready : p.ctl = .ready) (a : PinsIn) : (p.waitEdge a).ctl = .ready := by
  rw [PinState.waitEdge, ready]

theorem waitEdge_ctl_of_busy {p : PinState} {n : Nat} (busy : p.ctl = .busy n) (a : PinsIn) :
    (p.waitEdge a).ctl = busyFor n := by
  rw [PinState.waitEdge, busy]

theorem waitEdge_ctl_of_transfer {p : PinState} {a : PinsIn} (responding : p.ctl = .responding) (taken : a.rspReady = true) :
    (p.waitEdge a).ctl = settleFor (Config.settleCycles p.edges) := by
  rw [PinState.waitEdge, responding]
  exact if_pos taken

theorem waitEdge_ctl_of_held {p : PinState} {a : PinsIn} (responding : p.ctl = .responding) (held : a.rspReady = false) :
    (p.waitEdge a).ctl = .responding := by
  rw [PinState.waitEdge, responding]
  exact if_neg (Bool.eq_false_iff.mp held)

/-- Past the first reset the handshake stays so, and only a transfer ends the flight of a command. -/
theorem waitEdge_handshake {p : PinState} {a : PinsIn} (noReset : a.rst = false) (running : p.ctl ≠ .unreset) :
    (p.waitEdge a).ctl ≠ .unreset ∧ (p.waitEdge a).ctl.inFlight = (p.ctl.inFlight && !p.transfers a) := by
  cases ctl : p.ctl with
  | unreset => exact absurd ctl running
  | settling n => simp [waitEdge_ctl_of_settling ctl]
  | ready => simp [waitEdge_ctl_of_ready ctl]
  | busy n => simp [waitEdge_ctl_of_busy ctl, transfers_eq_false (a := a) (ctl ▸ nofun : p.ctl ≠ .responding)]
  | responding =>
    cases taken : a.rspReady with
    | true => simp [waitEdge_ctl_of_transfer ctl taken, (transfers_iff p a).mpr ⟨noReset, taken, ctl⟩]
    | false => simp [waitEdge_ctl_of_held ctl taken, PinState.transfers, taken]

/-! ### The edge by its cases -/

theorem edge_of_reset {p : PinState} {a : PinsIn} (reset : a.rst = true) : edge p a = .next p.resetEdge := if_pos reset

theorem edge_of_unreset {p : PinState} {a : PinsIn} (unreset : p.ctl = .unreset) (noReset : a.rst = false) :
    edge p a = .refused .beforeFirstReset := by
  simp [edge, unreset, noReset]

theorem edge_of_accepts {p : PinState} {a : PinsIn} (keeps : p.hostKeepsOffer a = true) (accepts : p.accepts a = true) :
    edge p a = p.acceptEdge a.cmd := by
  obtain ⟨noReset, _, ready⟩ := (accepts_iff p a).mp accepts
  simp [edge, noReset, ready, keeps, accepts]

theorem edge_of_waits {p : PinState} {a : PinsIn} (noReset : a.rst = false) (running : p.ctl ≠ .unreset)
    (keeps : p.hostKeepsOffer a = true) (waits : p.accepts a = false) : edge p a = .next (p.waitEdge a) := by
  simp [edge, noReset, running, keeps, waits]

/-- An edge that answers a next state with `rst = 0` accepts a command or waits, and the host kept its offer. -/
theorem edge_cases {p q : PinState} {a : PinsIn} (noReset : a.rst = false) (next : edge p a = .next q) :
    (p.accepts a = true ∧ p.acceptEdge a.cmd = .next q) ∨
    (p.ctl ≠ .unreset ∧ p.accepts a = false ∧ q = p.waitEdge a) := by
  rw [edge, if_neg (Bool.eq_false_iff.mp noReset)] at next
  split at next
  · cases next
  · split at next
    · cases next
    · split at next
      · exact .inl ⟨‹_›, next⟩
      · exact .inr ⟨‹_›, Bool.eq_false_iff.mpr ‹_›, (Host.Outcome.next.inj next).symm⟩

/-! ### The reset edge -/

theorem abandon_outbox (p : PinState) :
    p.abandon.outbox = if p.ctl.inFlight then p.core.outbox.dropLast else p.core.outbox := by
  rw [abandon_eq]

theorem resetEdge_inFlight (p : PinState) : p.resetEdge.ctl.inFlight = false := inFlight_settleFor _

theorem resetEdge_ne_unreset (p : PinState) : p.resetEdge.ctl ≠ .unreset := settleFor_ne_unreset _

end Sys2Proof.Proofs.PinEdge
end

section
/-! SUPPORT. The handshake at one edge: before the first reset, at a reset, and after it (70_reset_and_hazards.md R156 to R171), with
the invariant of the pin layer. -/

namespace Sys2Proof.Proofs.PinHandshake

open Sys2Proof Sys2Proof.Machine Sys2Proof.Machine.Pins Sys2Proof.Proofs.PinEdge

/-- Settles O55: an edge without reset is refused, and the removal of power leads back to before the first reset. -/
theorem pinsHaveNoMeaningBeforeReset : Obligations.PinsHaveNoMeaningBeforeReset := by
  refine ⟨fun p a unreset noReset => ⟨edge_of_unreset unreset noReset, outputs_of_unreset unreset⟩, fun p => ?_⟩
  exact ⟨p.removePower, rfl, rfl, rfl, rfl, rfl, abandon_outbox p⟩

/-- Settles O56: the edge is a reset edge in every pin state, and `rst = 1` stops both handshakes. -/
theorem pinResetOverridesEverything : Obligations.PinResetOverridesEverything := by
  intro p a reset
  refine ⟨⟨p.resetEdge, edge_of_reset reset, rfl, rfl, rfl, resetEdge_inFlight p, resetEdge_ne_unreset p, abandon_outbox p⟩,
    ?_, ?_, fun o out => ⟨?_, ?_⟩⟩
  · simp [PinState.accepts, reset]
  · simp [PinState.transfers, reset]
  · simp [Bool.eq_false_iff, cmdReady_iff out, reset]
  · simp [Bool.eq_false_iff, rspValid_iff out, reset]

/-! ### The invariant -/

theorem pinsInv_resetEdge (p : PinState) : PinsInv p.resetEdge where
  running := resetEdge_ne_unreset p
  answered inFlight := absurd inFlight (Bool.eq_false_iff.mp (resetEdge_inFlight p))

theorem pinsInv_of_acceptEdge {p q : PinState} {w : Word} (next : p.acceptEdge w = .next q) : PinsInv q := by
  obtain ⟨core, r, accepted, _, answered, _⟩ := acceptEdge_runs p w
  cases accepted.symm.trans next
  exact ⟨busyFor_ne_unreset _, fun _ => answered ▸ List.append_ne_nil_of_right_ne_nil _ (List.cons_ne_nil r [])⟩

theorem pinsInv_waitEdge {p : PinState} {a : PinsIn} (inv : PinsInv p) (noReset : a.rst = false) : PinsInv (p.waitEdge a) := by
  obtain ⟨running, flight⟩ := waitEdge_handshake noReset inv.running
  refine ⟨running, fun inFlight => inv.answered ?_⟩
  rw [flight, Bool.and_eq_true] at inFlight
  exact inFlight.1

/-- Settles O58: each case of an edge keeps the invariant, and a reset edge needs none before it. -/
theorem edgeKeepsThePinInvariant : Obligations.EdgeKeepsThePinInvariant := by
  intro p q a next start
  cases reset : a.rst with
  | true =>
    cases (edge_of_reset reset).symm.trans next
    exact pinsInv_resetEdge p
  | false =>
    have inv : PinsInv p := start.resolve_right (Bool.eq_false_iff.mp reset)
    obtain ⟨_, accepted⟩ | ⟨_, _, rfl⟩ := edge_cases reset next
    · exact pinsInv_of_acceptEdge accepted
    · exact pinsInv_waitEdge inv reset

/-! ### One command at a time -/

/-- The test for acceptance can be read off the pins (R167). -/
theorem accepts_iff_pins {p : PinState} (running : p.ctl ≠ .unreset) (a : PinsIn) :
    p.accepts a = true ↔ a.rst = false ∧ a.cmdValid = true ∧ ∃ o, p.outputs a.rst = some o ∧ o.cmdReady = true := by
  rw [accepts_iff]
  refine and_congr_right fun noReset => and_congr_right fun _ => ⟨fun ready => ?_, fun ⟨o, out, cmdReady⟩ => ?_⟩
  · obtain ⟨o, out⟩ := exists_outputs running a.rst
    exact ⟨o, out, (cmdReady_iff out).mpr ⟨noReset, ready⟩⟩
  · exact ((cmdReady_iff out).mp cmdReady).2

/-- A response that is offered and not taken is offered unchanged (R168). -/
theorem outputs_waitEdge_of_held {p : PinState} {a : PinsIn} (inv : PinsInv p) (responding : p.ctl = .responding)
    (held : a.rspReady = false) : (p.waitEdge a).outputs false = p.outputs false := by
  have answered : p.core.outbox ≠ [] := inv.answered (responding ▸ inFlight_responding)
  rw [outputs_of_responding responding, outputs_of_responding (waitEdge_ctl_of_held responding held),
    response_eq_of_core_eq p (p.waitEdge a) rfl answered]

/-- Settles O57: acceptance is read off the pins, `cmd_ready` excludes a command in flight, and the last two clauses are the edge that
accepts and the edge that waits. -/
theorem pinHandshakeTakesOneCommandAtATime : Obligations.PinHandshakeTakesOneCommandAtATime := by
  refine fun p a inv => ⟨accepts_iff_pins inv.running a, fun inFlight rst o out => ?_, fun keeps accepts => ?_,
    fun keeps responding noReset held => ?_⟩
  · refine Bool.eq_false_iff.mpr fun cmdReady => ?_
    rw [((cmdReady_iff out).mp cmdReady).2] at inFlight
    cases inFlight
  · obtain ⟨core, _, accepted, runs, _⟩ := acceptEdge_runs p a.cmd
    exact ⟨_, (edge_of_accepts keeps accepts).trans accepted, runs, inFlight_busyFor _⟩
  · have waits : p.accepts a = false := accepts_eq_false (responding ▸ nofun)
    exact ⟨_, edge_of_waits noReset inv.running keeps waits, outputs_waitEdge_of_held inv responding held⟩

end Sys2Proof.Proofs.PinHandshake
end

section
/-! SUPPORT. Sequences of edges with no reset: bounded progress (70_reset_and_hazards.md R169, R174), and the refinement of the
transaction-level machine (R168, R169). -/

namespace Sys2Proof.Proofs.PinRun

open Sys2Proof Sys2Proof.Machine Sys2Proof.Machine.Pins Sys2Proof.Proofs.PinEdge

/-! ### One edge at the front -/

theorem run_cons_iff {p q : PinState} {a : PinsIn} {as : List PinsIn} :
    Pins.run p (a :: as) = .next q ↔ ∃ p', edge p a = .next p' ∧ Pins.run p' as = .next q := by
  rw [Pins.run]
  cases edge p a <;> simp

theorem acceptedWords_cons {p p' : PinState} {a : PinsIn} (next : edge p a = .next p') (as : List PinsIn) :
    acceptedWords p (a :: as) = (if p.accepts a then [a.cmd] else []) ++ acceptedWords p' as := by
  rw [acceptedWords, next]

theorem transferredResponses_cons {p p' : PinState} {a : PinsIn} (next : edge p a = .next p') (as : List PinsIn) :
    transferredResponses p (a :: as) = (if p.transfers a then [p.response] else []) ++ transferredResponses p' as := by
  rw [transferredResponses, next]

theorem hostBehaves_cons {p : PinState} {a : PinsIn} {as : List PinsIn} (behaves : HostBehaves p (a :: as)) :
    ∃ p', edge p a = .next p' ∧ a.rst = false ∧ HostBehaves p' as := by
  obtain ⟨noReset, _, later⟩ := behaves
  cases next : edge p a with
  | next p' =>
    rw [next] at later
    exact ⟨p', rfl, noReset, later⟩
  | fault r =>
    rw [next] at later
    exact later.elim
  | refused r =>
    rw [next] at later
    exact later.elim

/-! ### The counts run down -/

/-- While a count runs in which nothing is accepted and which every edge lowers, the host's edges bring it to its end. -/
theorem run_counts_down {count : Nat → Ctl} (notReady : ∀ n, count (n + 1) ≠ .ready)
    (lowers : ∀ (p : PinState) (a : PinsIn) (n : Nat), p.ctl = count (n + 1) → (p.waitEdge a).ctl = count n)
    {ins : List PinsIn} {p : PinState} (counting : p.ctl = count ins.length) (behaves : HostBehaves p ins) :
    ∃ r, Pins.run p ins = .next r ∧ r.ctl = count 0 := by
  induction ins generalizing p with
  | nil => exact ⟨p, rfl, counting⟩
  | cons a as ih =>
    obtain ⟨p', next, noReset, later⟩ := hostBehaves_cons behaves
    have waits : p.accepts a = false := accepts_eq_false (counting ▸ notReady as.length)
    obtain ⟨accepts, _⟩ | ⟨_, _, rfl⟩ := edge_cases noReset next
    · exact absurd accepts (Bool.eq_false_iff.mp waits)
    · obtain ⟨r, runs, done⟩ := ih (lowers p a as.length counting) later
      exact ⟨r, run_cons_iff.mpr ⟨_, next, runs⟩, done⟩

/-- After as many edges as it settles for, `cmd_ready = 1`. -/
theorem run_settles {p : PinState} {ins : List PinsIn} (settling : p.ctl = settleFor ins.length) (behaves : HostBehaves p ins) :
    ∃ r, Pins.run p ins = .next r ∧ r.ctl = .ready :=
  run_counts_down (count := settleFor) (fun _ => nofun) (fun _ a _ counting => waitEdge_ctl_of_settling counting a) settling behaves

/-- After as many edges as it is busy for, `rsp_valid = 1`. -/
theorem run_responds {p : PinState} {ins : List PinsIn} (busy : p.ctl = busyFor ins.length) (behaves : HostBehaves p ins) :
    ∃ r, Pins.run p ins = .next r ∧ r.ctl = .responding :=
  run_counts_down (count := busyFor) (fun _ => nofun) (fun _ a _ counting => waitEdge_ctl_of_busy counting a) busy behaves

/-- Settles O60: the three edges start the three counts, each of which the model gives as a number. -/
theorem everyAcceptedCommandIsAnswered : Obligations.EveryAcceptedCommandIsAnswered := by
  refine fun p a => ⟨fun reset => ?_, fun keeps accepts => ?_, fun keeps transfers => ?_⟩
  · refine ⟨p.resetEdge, Config.settleCycles p.edges, edge_of_reset reset, fun o out => ?_, fun ins len behaves => ?_⟩
    · refine Bool.eq_false_iff.mpr fun rspValid => ?_
      have idle := resetEdge_inFlight p
      rw [((rspValid_iff out).mp rspValid).2] at idle
      cases idle
    · obtain ⟨r, runs, ready⟩ := run_settles (p := p.resetEdge) (congrArg settleFor len.symm) behaves
      exact ⟨r, _, len.le, by rwa [List.take_length], outputs_of_ready ready⟩
  · obtain ⟨core, _, accepted, _⟩ := acceptEdge_runs p a.cmd
    refine ⟨_, Config.latency a.cmd p.core, (edge_of_accepts keeps accepts).trans accepted, fun ins len behaves => ?_⟩
    exact run_responds (congrArg busyFor len.symm) behaves
  · obtain ⟨noReset, taken, responding⟩ := (transfers_iff p a).mp transfers
    have waits : p.accepts a = false := accepts_eq_false (responding ▸ nofun)
    refine ⟨_, Config.settleCycles p.edges, edge_of_waits noReset (responding ▸ nofun) keeps waits, fun ins len behaves => ?_⟩
    have settling := (waitEdge_ctl_of_transfer responding taken).trans (congrArg settleFor len.symm)
    obtain ⟨r, runs, ready⟩ := run_settles settling behaves
    exact ⟨r, _, len.le, by rwa [List.take_length], ready⟩

/-! ### The refinement -/

/-- The step that takes a command runs its word, whatever inputs stand behind it. -/
theorem step_command {w : Word} {s t : State} (runs : runWord w s = .next t) (rest : List HostInput) :
    step { s with inbox := .command w :: rest } = .next { t with inbox := rest } :=
  runWord_inbox w s t rest runs

/-- The words accepted, taken as one run of steps, give the core's state. -/
theorem reaches_of_run {ins : List PinsIn} {p q : PinState} (runs : Pins.run p ins = .next q) (noReset : ∀ a ∈ ins, a.rst = false) :
    Reaches (acceptedWords p ins).length
      { p.core with inbox := (acceptedWords p ins).map .command ++ p.core.inbox } q.core := by
  induction ins generalizing p with
  | nil =>
    cases runs
    rfl
  | cons a as ih =>
    obtain ⟨p', next, later⟩ := run_cons_iff.mp runs
    obtain ⟨headNoReset, tailNoReset⟩ := List.forall_mem_cons.mp noReset
    have reaches := ih later tailNoReset
    rw [acceptedWords_cons next]
    obtain ⟨accepts, accepted⟩ | ⟨_, waits, rfl⟩ := edge_cases headNoReset next
    · obtain ⟨core, _, accepted', wordRuns, _, inputs⟩ := acceptEdge_runs p a.cmd
      cases accepted'.symm.trans accepted
      rw [if_pos accepts, ← inputs]
      exact (reaches_succ (step_command wordRuns _)).mpr reaches
    · rw [if_neg (Bool.eq_false_iff.mp waits)]
      exact reaches

/-- The response offered is the last one produced. -/
theorem response_of_outbox {p : PinState} {given : List Response} {r : Response} (record : p.core.outbox = given ++ [r]) :
    p.response = r := by
  simp [PinState.response, record]

theorem acceptEdge_keeps_record {p q : PinState} {a : PinsIn} {given : List Response} (accepts : p.accepts a = true)
    (next : p.acceptEdge a.cmd = .next q) (record : p.core.outbox = given ++ pendingResponses p) :
    q.core.outbox = given ++ (if p.transfers a then [p.response] else []) ++ pendingResponses q := by
  obtain ⟨core, r, accepted, _, answered, _⟩ := acceptEdge_runs p a.cmd
  cases accepted.symm.trans next
  obtain ⟨_, _, ready⟩ := (accepts_iff p a).mp accepts
  rw [pendingResponses_of_idle p (ready ▸ inFlight_ready), List.append_nil] at record
  have produced : (afterAccept p a.cmd core).core.outbox = given ++ [r] := record ▸ answered
  rw [pendingResponses_of_inFlight _ (inFlight_busyFor _), response_of_outbox produced, transfers_eq_false (ready ▸ nofun)]
  simpa using produced

/-- An edge that waits and transfers nothing leaves what is pending. -/
theorem pendingResponses_waitEdge {p : PinState} {a : PinsIn} (noReset : a.rst = false) (inv : PinsInv p)
    (transfersNone : p.transfers a = false) : pendingResponses (p.waitEdge a) = pendingResponses p := by
  obtain ⟨_, flight⟩ := waitEdge_handshake noReset inv.running
  rw [transfersNone, Bool.not_false, Bool.and_true] at flight
  cases inFlight : p.ctl.inFlight with
  | false => rw [pendingResponses_of_idle _ (flight.trans inFlight), pendingResponses_of_idle p inFlight]
  | true =>
    rw [pendingResponses_of_inFlight _ (flight.trans inFlight), pendingResponses_of_inFlight p inFlight,
      response_eq_of_core_eq p (p.waitEdge a) rfl (inv.answered inFlight)]

theorem waitEdge_keeps_record {p : PinState} {a : PinsIn} {given : List Response} (noReset : a.rst = false)
    (running : p.ctl ≠ .unreset) (record : p.core.outbox = given ++ pendingResponses p) :
    p.core.outbox = given ++ (if p.transfers a then [p.response] else []) ++ pendingResponses (p.waitEdge a) := by
  cases transfers : p.transfers a with
  | true =>
    obtain ⟨_, taken, responding⟩ := (transfers_iff p a).mp transfers
    have idle : (p.waitEdge a).ctl.inFlight = false := waitEdge_ctl_of_transfer responding taken ▸ inFlight_settleFor _
    rw [pendingResponses_of_inFlight p (responding ▸ inFlight_responding)] at record
    simpa [pendingResponses_of_idle _ idle] using record
  | false =>
    have inv : PinsInv p := ⟨running, fun inFlight => by simp [record, pendingResponses_of_inFlight p inFlight]⟩
    simpa [pendingResponses_waitEdge noReset inv transfers] using record

/-- At one edge the record of responses stays what was given, then what is transferred, then what is pending. -/
theorem edge_keeps_record {p q : PinState} {a : PinsIn} {given : List Response} (noReset : a.rst = false)
    (next : edge p a = .next q) (record : p.core.outbox = given ++ pendingResponses p) :
    q.core.outbox = given ++ (if p.transfers a then [p.response] else []) ++ pendingResponses q := by
  obtain ⟨accepts, accepted⟩ | ⟨running, _, rfl⟩ := edge_cases noReset next
  · exact acceptEdge_keeps_record accepts accepted record
  · exact waitEdge_keeps_record noReset running record

/-- Along a sequence of edges the record of responses stays what was given, then what was transferred, then what is pending. -/
theorem run_keeps_record {ins : List PinsIn} {p q : PinState} {given : List Response} (runs : Pins.run p ins = .next q)
    (noReset : ∀ a ∈ ins, a.rst = false) (record : p.core.outbox = given ++ pendingResponses p) :
    q.core.outbox = given ++ transferredResponses p ins ++ pendingResponses q := by
  induction ins generalizing p given with
  | nil =>
    cases runs
    simpa [transferredResponses] using record
  | cons a as ih =>
    obtain ⟨p', next, later⟩ := run_cons_iff.mp runs
    obtain ⟨headNoReset, tailNoReset⟩ := List.forall_mem_cons.mp noReset
    rw [transferredResponses_cons next, ← List.append_assoc given]
    exact ih later tailNoReset (edge_keeps_record headNoReset next record)

/-- Settles O59: the state and the responses each by an induction over the edges. -/
theorem pinsRefineTheTransactions : Obligations.PinsRefineTheTransactions :=
  fun _ _ _ _ runs noReset record => ⟨reaches_of_run runs noReset, run_keeps_record runs noReset record⟩

end Sys2Proof.Proofs.PinRun
end
